-- ==== Sys2Proof/Word.lean ====
section
/-! DEFINITION. The word types of the radix converter block (00_scope.md rules R7 to R9): a byte of a
byte string or text, a 32-bit register of the window, and the 24-bit LEN field of a command word. -/

namespace Sys2Proof

/-- One byte of a payload, of OUT or of a text; a character is one byte (R9). -/
abbrev Byte := BitVec 8

/-- One 32-bit register of the window, or one command word (R6 `REG_BITS`, R70). -/
abbrev Word := BitVec 32

/-- The LEN operand of a command word (R6 `LEN_BITS`, R74): 24 bits, unsigned. -/
abbrev Len := BitVec 24

end Sys2Proof
end

