-- ==== Sys2Proof/Syntax.lean ====
section
/-! DEFINITION. The command set RCB-1 (30_encoding.md rules R70 to R79): one constructor of `Instr` for
each row of the opcode map, with the engine, the operation and the LEN operand of each. -/

namespace Sys2Proof

/-- The three conversion engines (R1, R71). -/
inductive Engine where
  | b45
  | b85
  | b91
  deriving DecidableEq, Repr

/-- The eleven operations (R72). -/
inductive Op where
  | enc
  | dec
  | eopen
  | efeed
  | eclose
  | efail
  | dopen
  | dchunk
  | dread
  | deof
  | dfail
  deriving DecidableEq, Repr

/-- The commands of the opcode map (R79), in the map's order. LEN is the only operand in a command word
(R74); a command whose LEN must be 0 has none. The payload is no part of the word: it comes with the
transaction (R73). -/
inductive Instr where
  /-- B45.ENC: whole-buffer encode of a payload of `len` bytes. -/
  | b45Enc (len : Len)
  /-- B85.ENC: whole-buffer encode of a payload of `len` bytes. -/
  | b85Enc (len : Len)
  /-- B91.ENC: whole-buffer encode of a payload of `len` bytes. -/
  | b91Enc (len : Len)
  /-- B45.DEC: whole-buffer decode of a payload of `len` bytes. -/
  | b45Dec (len : Len)
  /-- B85.DEC: whole-buffer decode of a payload of `len` bytes. -/
  | b85Dec (len : Len)
  /-- B91.DEC: whole-buffer decode of a payload of `len` bytes. -/
  | b91Dec (len : Len)
  /-- B45.EOPEN: create an encoder instance. -/
  | b45Eopen
  /-- B85.EOPEN: create an encoder instance. -/
  | b85Eopen
  /-- B91.EOPEN: create an encoder instance. -/
  | b91Eopen
  /-- B45.EFEED: feed a payload of `len` bytes to the encoder channel. -/
  | b45Efeed (len : Len)
  /-- B85.EFEED: feed a payload of `len` bytes to the encoder channel. -/
  | b85Efeed (len : Len)
  /-- B91.EFEED: feed a payload of `len` bytes to the encoder channel. -/
  | b91Efeed (len : Len)
  /-- B45.ECLOSE: flush and close the encoder channel. -/
  | b45Eclose
  /-- B85.ECLOSE: flush and close the encoder channel. -/
  | b85Eclose
  /-- B91.ECLOSE: flush and close the encoder channel. -/
  | b91Eclose
  /-- B45.EFAIL: the sink reports a write failure with this code. -/
  | b45Efail (code : Len)
  /-- B85.EFAIL: the sink reports a write failure with this code. -/
  | b85Efail (code : Len)
  /-- B91.EFAIL: the sink reports a write failure with this code. -/
  | b91Efail (code : Len)
  /-- B45.DOPEN: create a decoder instance. -/
  | b45Dopen
  /-- B85.DOPEN: create a decoder instance. -/
  | b85Dopen
  /-- B91.DOPEN: create a decoder instance. -/
  | b91Dopen
  /-- B45.DCHUNK: decode a chunk of `len` bytes into the pending buffer. -/
  | b45Dchunk (len : Len)
  /-- B85.DCHUNK: decode a chunk of `len` bytes into the pending buffer. -/
  | b85Dchunk (len : Len)
  /-- B91.DCHUNK: decode a chunk of `len` bytes into the pending buffer. -/
  | b91Dchunk (len : Len)
  /-- B45.DREAD: deliver at most `count` decoded bytes. -/
  | b45Dread (count : Len)
  /-- B85.DREAD: deliver at most `count` decoded bytes. -/
  | b85Dread (count : Len)
  /-- B91.DREAD: deliver at most `count` decoded bytes. -/
  | b91Dread (count : Len)
  /-- B45.DEOF: the source reports end of input. -/
  | b45Deof
  /-- B85.DEOF: the source reports end of input. -/
  | b85Deof
  /-- B91.DEOF: the source reports end of input. -/
  | b91Deof
  /-- B45.DFAIL: the source reports a read failure with this code. -/
  | b45Dfail (code : Len)
  /-- B85.DFAIL: the source reports a read failure with this code. -/
  | b85Dfail (code : Len)
  /-- B91.DFAIL: the source reports a read failure with this code. -/
  | b91Dfail (code : Len)
  deriving DecidableEq, Repr

/-- The engine a command selects (R71). -/
def Instr.engine : Instr → Engine
  | .b45Enc _ => .b45
  | .b85Enc _ => .b85
  | .b91Enc _ => .b91
  | .b45Dec _ => .b45
  | .b85Dec _ => .b85
  | .b91Dec _ => .b91
  | .b45Eopen => .b45
  | .b85Eopen => .b85
  | .b91Eopen => .b91
  | .b45Efeed _ => .b45
  | .b85Efeed _ => .b85
  | .b91Efeed _ => .b91
  | .b45Eclose => .b45
  | .b85Eclose => .b85
  | .b91Eclose => .b91
  | .b45Efail _ => .b45
  | .b85Efail _ => .b85
  | .b91Efail _ => .b91
  | .b45Dopen => .b45
  | .b85Dopen => .b85
  | .b91Dopen => .b91
  | .b45Dchunk _ => .b45
  | .b85Dchunk _ => .b85
  | .b91Dchunk _ => .b91
  | .b45Dread _ => .b45
  | .b85Dread _ => .b85
  | .b91Dread _ => .b91
  | .b45Deof => .b45
  | .b85Deof => .b85
  | .b91Deof => .b91
  | .b45Dfail _ => .b45
  | .b85Dfail _ => .b85
  | .b91Dfail _ => .b91

/-- The operation a command performs (R72). -/
def Instr.op : Instr → Op
  | .b45Enc _ => .enc
  | .b85Enc _ => .enc
  | .b91Enc _ => .enc
  | .b45Dec _ => .dec
  | .b85Dec _ => .dec
  | .b91Dec _ => .dec
  | .b45Eopen => .eopen
  | .b85Eopen => .eopen
  | .b91Eopen => .eopen
  | .b45Efeed _ => .efeed
  | .b85Efeed _ => .efeed
  | .b91Efeed _ => .efeed
  | .b45Eclose => .eclose
  | .b85Eclose => .eclose
  | .b91Eclose => .eclose
  | .b45Efail _ => .efail
  | .b85Efail _ => .efail
  | .b91Efail _ => .efail
  | .b45Dopen => .dopen
  | .b85Dopen => .dopen
  | .b91Dopen => .dopen
  | .b45Dchunk _ => .dchunk
  | .b85Dchunk _ => .dchunk
  | .b91Dchunk _ => .dchunk
  | .b45Dread _ => .dread
  | .b85Dread _ => .dread
  | .b91Dread _ => .dread
  | .b45Deof => .deof
  | .b85Deof => .deof
  | .b91Deof => .deof
  | .b45Dfail _ => .dfail
  | .b85Dfail _ => .dfail
  | .b91Dfail _ => .dfail

/-- The LEN field of a command (R74): its operand, and 0 where LEN must be 0. -/
def Instr.len : Instr → Len
  | .b45Enc n => n
  | .b85Enc n => n
  | .b91Enc n => n
  | .b45Dec n => n
  | .b85Dec n => n
  | .b91Dec n => n
  | .b45Eopen => 0
  | .b85Eopen => 0
  | .b91Eopen => 0
  | .b45Efeed n => n
  | .b85Efeed n => n
  | .b91Efeed n => n
  | .b45Eclose => 0
  | .b85Eclose => 0
  | .b91Eclose => 0
  | .b45Efail n => n
  | .b85Efail n => n
  | .b91Efail n => n
  | .b45Dopen => 0
  | .b85Dopen => 0
  | .b91Dopen => 0
  | .b45Dchunk n => n
  | .b85Dchunk n => n
  | .b91Dchunk n => n
  | .b45Dread n => n
  | .b85Dread n => n
  | .b91Dread n => n
  | .b45Deof => 0
  | .b85Deof => 0
  | .b91Deof => 0
  | .b45Dfail n => n
  | .b85Dfail n => n
  | .b91Dfail n => n

/-- The command of an operation and an engine with the LEN operand `n`; a command without an operand
drops it (R79). -/
def Instr.ofFields : Op → Engine → Len → Instr
  | .enc, .b45, n => .b45Enc n
  | .enc, .b85, n => .b85Enc n
  | .enc, .b91, n => .b91Enc n
  | .dec, .b45, n => .b45Dec n
  | .dec, .b85, n => .b85Dec n
  | .dec, .b91, n => .b91Dec n
  | .eopen, .b45, _ => .b45Eopen
  | .eopen, .b85, _ => .b85Eopen
  | .eopen, .b91, _ => .b91Eopen
  | .efeed, .b45, n => .b45Efeed n
  | .efeed, .b85, n => .b85Efeed n
  | .efeed, .b91, n => .b91Efeed n
  | .eclose, .b45, _ => .b45Eclose
  | .eclose, .b85, _ => .b85Eclose
  | .eclose, .b91, _ => .b91Eclose
  | .efail, .b45, n => .b45Efail n
  | .efail, .b85, n => .b85Efail n
  | .efail, .b91, n => .b91Efail n
  | .dopen, .b45, _ => .b45Dopen
  | .dopen, .b85, _ => .b85Dopen
  | .dopen, .b91, _ => .b91Dopen
  | .dchunk, .b45, n => .b45Dchunk n
  | .dchunk, .b85, n => .b85Dchunk n
  | .dchunk, .b91, n => .b91Dchunk n
  | .dread, .b45, n => .b45Dread n
  | .dread, .b85, n => .b85Dread n
  | .dread, .b91, n => .b91Dread n
  | .deof, .b45, _ => .b45Deof
  | .deof, .b85, _ => .b85Deof
  | .deof, .b91, _ => .b91Deof
  | .dfail, .b45, n => .b45Dfail n
  | .dfail, .b85, n => .b85Dfail n
  | .dfail, .b91, n => .b91Dfail n

end Sys2Proof
end

