-- ==== Sys2Proof/WellFormed.lean ====
section
/-! DEFINITION. Well-formed command transactions (30_encoding.md rule R73). A command term alone is always
well formed: its LEN is a 24-bit value by type. What can be wrong is the payload sent with it. -/

namespace Sys2Proof

/-- The operations that carry a payload of LEN bytes (R72, column "payload"). -/
def Op.carriesPayload : Op → Bool
  | .enc => true
  | .dec => true
  | .efeed => true
  | .dchunk => true
  | .eopen => false
  | .eclose => false
  | .efail => false
  | .dopen => false
  | .dread => false
  | .deof => false
  | .dfail => false

/-- The operations whose LEN must be 0 (R72, column "LEN is"). -/
def Op.lenMustBeZero : Op → Bool
  | .eopen => true
  | .eclose => true
  | .dopen => true
  | .deof => true
  | .enc => false
  | .dec => false
  | .efeed => false
  | .efail => false
  | .dchunk => false
  | .dread => false
  | .dfail => false

/-- How many payload bytes the transaction of a command carries (R73). -/
def Instr.payloadBytes (i : Instr) : Nat :=
  if i.op.carriesPayload then i.len.toNat else 0

/-- A command with the payload sent with it (R73). -/
structure Transaction where
  instr   : Instr
  payload : List Byte
  deriving DecidableEq, Repr

/-- The payload has exactly the length the command requires (R73, R285). -/
def Transaction.wellFormed (t : Transaction) : Bool :=
  t.payload.length == t.instr.payloadBytes

end Sys2Proof
end

