-- ==== Sys2Proof/Decode.lean ====
section
/-! DEFINITION. The command word (30_encoding.md rules R70 to R79): its fields, the codes of the engines and
operations, the decoder (total, rejecting by name), and the encoder written from the same tables. -/

namespace Sys2Proof

/-- ENG, bits 1:0 (R70). -/
def engField (w : Word) : BitVec 2 := w.extractLsb' 0 2

/-- RSV, bits 3:2 (R70). -/
def rsvField (w : Word) : BitVec 2 := w.extractLsb' 2 2

/-- OP, bits 7:4 (R70). -/
def opField (w : Word) : BitVec 4 := w.extractLsb' 4 4

/-- LEN, bits 31:8 (R70). -/
def lenField (w : Word) : Len := w.extractLsb' 8 24

/-- A field value at its place in a 32-bit word: `zext_32(v) << lo` (R8, R32). -/
def place {n : Nat} (v : BitVec n) (lo : Nat) : Word :=
  v.setWidth 32 <<< lo

/-- The ENG code of an engine (R71). -/
def Engine.code : Engine → BitVec 2
  | .b45 => 0
  | .b85 => 1
  | .b91 => 2

/-- The engine of an ENG code; code 3 is reserved (R71). -/
def Engine.ofCode? (c : BitVec 2) : Option Engine :=
  if c = 0 then some .b45
  else if c = 1 then some .b85
  else if c = 2 then some .b91
  else none

/-- The OP code of an operation (R72). -/
def Op.code : Op → BitVec 4
  | .enc => 0x1
  | .dec => 0x2
  | .eopen => 0x3
  | .efeed => 0x4
  | .eclose => 0x5
  | .efail => 0x6
  | .dopen => 0x7
  | .dchunk => 0x8
  | .dread => 0x9
  | .deof => 0xA
  | .dfail => 0xB

/-- The operation of an OP code; codes 0x0 and 0xC to 0xF are reserved (R72). -/
def Op.ofCode? (c : BitVec 4) : Option Op :=
  if c = 0x1 then some .enc
  else if c = 0x2 then some .dec
  else if c = 0x3 then some .eopen
  else if c = 0x4 then some .efeed
  else if c = 0x5 then some .eclose
  else if c = 0x6 then some .efail
  else if c = 0x7 then some .dopen
  else if c = 0x8 then some .dchunk
  else if c = 0x9 then some .dread
  else if c = 0xA then some .deof
  else if c = 0xB then some .dfail
  else none

/-- Why a word spells no command, in the order the decoder checks (R75, R77, R249), or why bytes hold no
word. The block answers each of the first four with RESULT = ILLEGAL (R76). -/
inductive DecodeError where
  /-- RSV (bits 3:2) is not 0. -/
  | reservedBits
  /-- ENG is 3. -/
  | reservedEngine
  /-- OP is 0x0 or 0xC to 0xF. -/
  | reservedOp
  /-- LEN is not 0 in EOPEN, ECLOSE, DOPEN or DEOF. -/
  | lenNotZero
  /-- Fewer than the four bytes of a command word (R78). -/
  | truncated
  deriving DecidableEq, Repr

/-- `Decode` (R75), total on every 32-bit word. -/
def decodeWord (w : Word) : Except DecodeError Instr :=
  if rsvField w ≠ 0 then .error .reservedBits
  else
    match Engine.ofCode? (engField w) with
    | none => .error .reservedEngine
    | some e =>
      match Op.ofCode? (opField w) with
      | none => .error .reservedOp
      | some o =>
        if o.lenMustBeZero ∧ lenField w ≠ 0 then .error .lenNotZero
        else .ok (Instr.ofFields o e (lenField w))

/-- The payload length a transaction of the word `w` must have (R73), computed from OP and LEN as if the
word were legal: LEN for OP 0x1, 0x2, 0x4 and 0x8, else none (R77). -/
def payloadLength (w : Word) : Nat :=
  if opField w = 0x1 ∨ opField w = 0x2 ∨ opField w = 0x4 ∨ opField w = 0x8 then (lenField w).toNat
  else 0

/-- The four bytes of a word in the register window's byte order: bits 7:0 at the lowest offset (R54). -/
def bytesOfWord (w : Word) : List Byte :=
  [w.extractLsb' 0 8, w.extractLsb' 8 8, w.extractLsb' 16 8, w.extractLsb' 24 8]

/-- Decode the command word that begins a byte list stored in the window's byte order (R54), with the
bytes after it. -/
def decodeBytes : List Byte → Except DecodeError (Instr × List Byte)
  | b0 :: b1 :: b2 :: b3 :: rest =>
    match decodeWord (place b0 0 ||| place b1 8 ||| place b2 16 ||| place b3 24) with
    | .error e => .error e
    | .ok i => .ok (i, rest)
  | _ => .error .truncated

/-- The command word of a command (R70): ENG in bits 1:0, RSV = 0, OP in bits 7:4, LEN in bits 31:8. -/
def encode (i : Instr) : Word :=
  place i.engine.code 0 ||| place i.op.code 4 ||| place i.len 8

/-- The name of an engine (R71). -/
def Engine.name : Engine → String
  | .b45 => "B45"
  | .b85 => "B85"
  | .b91 => "B91"

/-- The name of an operation (R72). -/
def Op.name : Op → String
  | .enc => "ENC"
  | .dec => "DEC"
  | .eopen => "EOPEN"
  | .efeed => "EFEED"
  | .eclose => "ECLOSE"
  | .efail => "EFAIL"
  | .dopen => "DOPEN"
  | .dchunk => "DCHUNK"
  | .dread => "DREAD"
  | .deof => "DEOF"
  | .dfail => "DFAIL"

/-- The mnemonic of a command, `<ENG>.<OP>` (R79, R81). -/
def Instr.mnemonic (i : Instr) : String :=
  i.engine.name ++ "." ++ i.op.name

/-- One row of the opcode map (R79): `w &&& mask = fixed` says that `w` spells the row's command. -/
structure OpcodeRow where
  mnemonic : String
  fixed    : Word
  mask     : Word
  deriving DecidableEq, Repr

/-- The opcode map, transcribed from R79 row by row. -/
def opcodeMap : List OpcodeRow :=
  [⟨"B45.ENC", 0x00000010, 0x000000FF⟩, ⟨"B85.ENC", 0x00000011, 0x000000FF⟩,
   ⟨"B91.ENC", 0x00000012, 0x000000FF⟩, ⟨"B45.DEC", 0x00000020, 0x000000FF⟩,
   ⟨"B85.DEC", 0x00000021, 0x000000FF⟩, ⟨"B91.DEC", 0x00000022, 0x000000FF⟩] ++
  [⟨"B45.EOPEN", 0x00000030, 0xFFFFFFFF⟩, ⟨"B85.EOPEN", 0x00000031, 0xFFFFFFFF⟩,
   ⟨"B91.EOPEN", 0x00000032, 0xFFFFFFFF⟩, ⟨"B45.EFEED", 0x00000040, 0x000000FF⟩,
   ⟨"B85.EFEED", 0x00000041, 0x000000FF⟩, ⟨"B91.EFEED", 0x00000042, 0x000000FF⟩] ++
  [⟨"B45.ECLOSE", 0x00000050, 0xFFFFFFFF⟩, ⟨"B85.ECLOSE", 0x00000051, 0xFFFFFFFF⟩,
   ⟨"B91.ECLOSE", 0x00000052, 0xFFFFFFFF⟩, ⟨"B45.EFAIL", 0x00000060, 0x000000FF⟩,
   ⟨"B85.EFAIL", 0x00000061, 0x000000FF⟩, ⟨"B91.EFAIL", 0x00000062, 0x000000FF⟩] ++
  [⟨"B45.DOPEN", 0x00000070, 0xFFFFFFFF⟩, ⟨"B85.DOPEN", 0x00000071, 0xFFFFFFFF⟩,
   ⟨"B91.DOPEN", 0x00000072, 0xFFFFFFFF⟩, ⟨"B45.DCHUNK", 0x00000080, 0x000000FF⟩,
   ⟨"B85.DCHUNK", 0x00000081, 0x000000FF⟩, ⟨"B91.DCHUNK", 0x00000082, 0x000000FF⟩] ++
  [⟨"B45.DREAD", 0x00000090, 0x000000FF⟩, ⟨"B85.DREAD", 0x00000091, 0x000000FF⟩,
   ⟨"B91.DREAD", 0x00000092, 0x000000FF⟩, ⟨"B45.DEOF", 0x000000A0, 0xFFFFFFFF⟩,
   ⟨"B85.DEOF", 0x000000A1, 0xFFFFFFFF⟩, ⟨"B91.DEOF", 0x000000A2, 0xFFFFFFFF⟩] ++
  [⟨"B45.DFAIL", 0x000000B0, 0x000000FF⟩, ⟨"B85.DFAIL", 0x000000B1, 0x000000FF⟩,
   ⟨"B91.DFAIL", 0x000000B2, 0x000000FF⟩]

/-- The row's mask and match accept the word (R79). -/
def OpcodeRow.accepts (r : OpcodeRow) (w : Word) : Bool :=
  w &&& r.mask == r.fixed

/-- The instruction the decoder reads from the low `nbits` bits of `w`, stored as the window stores a
word; `none` where it refuses, or where `w` does not fit the 32 bits of a command word (R78). -/
def decodeTableWord (nbits w : Nat) : Option Instr :=
  let v := w % 2 ^ nbits
  if v < 2 ^ 32 then
    match decodeBytes (bytesOfWord (BitVec.ofNat 32 v)) with
    | .ok (i, _) => some i
    | .error _ => none
  else none

end Sys2Proof
end

