-- ==== Sys2Proof/Config.lean ====
section
/-! DEFINITION. What one build of the block fixes (00_scope.md rule R6). The two parameters the spec
leaves OPEN are opaque constants: no proof can learn their value, so a claim holds for each of them.
The values the spec does give (the alphabets, `B91_CLOSE_W`, `B91_SEED13`) stand in
Sys2Proof/Machine/Operands.lean. -/

namespace Sys2Proof.Config

/-- `B91_SENTINEL`, OPEN (R6, R201, D21; log entry 1): the value the base-91 decoder uses for a byte
outside its alphabet, a number 0 to 255. -/
opaque b91Sentinel : Byte

/-- The number of 64-byte blocks below the register window, OPEN (R6, R58; log entry 2). -/
opaque rcbBlock : Nat

/-- `RCB_BASE`, OPEN (R6, R58): the host address of the register window, aligned to 64 bytes. -/
def rcbBase : Nat := 64 * rcbBlock

/-- `WINDOW` (R6, R29): the size of the register window in bytes. -/
def windowBytes : Nat := 64

/-- The parameters of the base-91 engine (R6): `B91_ALPHABET`, `B91_SENTINEL`, `B91_SEED13` and
`B91_CLOSE_W`. The base-91 conversions take them as an argument, so that every reading the spec keeps
available is a value of this type. -/
structure B91Params where
  alphabet   : List Byte
  sentinel   : Byte
  seed13     : Bool
  closeWidth : Nat
  deriving DecidableEq, Repr

end Sys2Proof.Config
end

