-- ==== Sys2Proof/Machine/State.lean ====
section
/-! DEFINITION. The state of the block (10_state.md rules R20 to R42, 20_memory.md rule R52), the host's
pending actions on it, its reset value (70_reset_and_hazards.md rule R270), and the reasons a step can stop. -/

namespace Sys2Proof.Machine

/-- The error kinds of the taxonomy (R240). The code 0, "none", is no error and has no constructor. -/
inductive ErrKind where
  | invalidLength
  | illegalChar
  | corrupt
  | upstream
  deriving DecidableEq, Repr

/-- An error value `(kind, pos, aux)` (R28, R241). -/
structure ErrorValue where
  kind : ErrKind
  pos  : Word
  aux  : Word
  deriving DecidableEq, Repr

/-- The field `st` of an encoder channel (R23), with the field `err` (R24): a channel has an error value
exactly when it is FAILED, so the error is held by that state and `err` is NONE in every other. -/
inductive EncSt where
  | idle
  | opened
  | closed
  | failed (err : ErrorValue)
  deriving DecidableEq, Repr

/-- An encoder channel record (R24). -/
structure EncChannel where
  st    : EncSt
  res   : List Byte
  acc   : BitVec 13
  nbits : BitVec 4
  deriving DecidableEq, Repr

/-- The field `st` of a decoder channel (R23), with the field `err` (R26), held as in `EncSt`. -/
inductive DecSt where
  | idle
  | opened
  | eof
  | failed (err : ErrorValue)
  deriving DecidableEq, Repr

/-- A decoder channel record (R26). The read cursor of the source is always the front of `pend`. -/
structure DecChannel where
  st   : DecSt
  pend : List Byte
  deriving DecidableEq, Repr

/-- The field `err` of R24: NONE unless the channel is FAILED. -/
def EncSt.err : EncSt → Option ErrorValue
  | .failed e => some e
  | .idle => none
  | .opened => none
  | .closed => none

/-- The field `err` of R26: NONE unless the channel is FAILED. -/
def DecSt.err : DecSt → Option ErrorValue
  | .failed e => some e
  | .idle => none
  | .opened => none
  | .eof => none

/-- One value for each engine: the index `e` of `enc[e]` and `dec[e]` (R10, R20). -/
structure PerEngine (α : Type) where
  b45 : α
  b85 : α
  b91 : α
  deriving DecidableEq, Repr

/-- Read the entry of an engine. -/
def PerEngine.get {α : Type} (p : PerEngine α) : Engine → α
  | .b45 => p.b45
  | .b85 => p.b85
  | .b91 => p.b91

/-- Replace the entry of an engine. -/
def PerEngine.set {α : Type} (p : PerEngine α) (e : Engine) (a : α) : PerEngine α :=
  match e with
  | .b45 => { p with b45 := a }
  | .b85 => { p with b85 := a }
  | .b91 => { p with b91 := a }

/-- What the outside world does to the block, one at a time and in order (R31, R60). Addresses are host
addresses; the window begins at `RCB_BASE` (R58). -/
inductive HostAction where
  /-- A 32-bit write of a command word to CMD together with the payload on the data-in port (R31, R73). -/
  | command (word : Word) (payload : List Byte)
  /-- A register read of `width` bytes at a host address (R54). -/
  | read (addr width : Nat)
  /-- A register write of `width` bytes at a host address, with nothing on the data-in port (R54). -/
  | write (addr width : Nat) (value : Word)
  /-- The host takes bytes from the front of OUT: at most the count given, or all of them (R52, R82 DRAIN). -/
  | drain (count : Option Nat)
  /-- The reset input is asserted (R272). -/
  | reset
  /-- An access to the window by a second host (R250 (c), R262). -/
  | otherHost
  deriving DecidableEq, Repr

/-- What the block last returned to the host: nothing yet, the value of a register read, or the bytes
taken from OUT. -/
inductive Reply where
  | nothing
  | word (value : Word)
  | bytes (taken : List Byte)
  deriving DecidableEq, Repr

/-- The whole state. The first seven fields are the block's (R20, R52). The last two are the model's own
(log entry 3): the host's actions not yet performed, and what the last read or drain returned. -/
structure State where
  enc       : PerEngine EncChannel
  dec       : PerEngine DecChannel
  status    : Word
  count     : Word
  errPos    : Word
  errAux    : Word
  out       : List Byte
  hostQueue : List HostAction
  reply     : Reply
  deriving DecidableEq, Repr

/-- Why the machine stops with a fault: never. Every command, successful or not, ends with one `Finish`
and no condition transfers control (R243), so there is no constructor. -/
inductive Fault : Type where
  deriving DecidableEq, Repr

/-- Host actions that are no transaction of the block (R250), which the spec says the model refuses. -/
inductive Refusal where
  /-- A command without a meaning; no arm of `exec` answers with it. Safe: nothing is proved of it. -/
  | notModelled (mnemonic : String)
  /-- A transaction whose payload length is not the one its word requires (R73, R250 (a)), raised by
  `onTransaction`. Safe: the block has no behaviour for it and a correct host never issues it. -/
  | payloadLength
  /-- A register access that is not an aligned 32-bit access inside the window (R54, R250 (b)), raised by
  a read or write of the host. Safe, as above. -/
  | registerAccess
  /-- An access by a second host (R250 (c), R262), raised by `HostAction.otherHost`. Safe, as above. -/
  | secondHost
  deriving DecidableEq, Repr

/-- An encoder channel after reset (R270). -/
def EncChannel.reset : EncChannel :=
  { st := .idle, res := [], acc := 0, nbits := 0 }

/-- A decoder channel after reset (R270). -/
def DecChannel.reset : DecChannel :=
  { st := .idle, pend := [] }

/-- The block right after reset (R270), with no host action pending. -/
def State.reset : State where
  enc       := ⟨.reset, .reset, .reset⟩
  dec       := ⟨.reset, .reset, .reset⟩
  status    := 0
  count     := 0
  errPos    := 0
  errAux    := 0
  out       := []
  hostQueue := []
  reply     := .nothing

end Sys2Proof.Machine
end

