-- ==== Sys2Proof/Machine/Flags.lean ====
section
/-! DEFINITION. The block has no condition flags (10_state.md rule R22): the outcome of a command is STATUS.
This file holds the layout of STATUS (R32, R33, R240), the read-only views of the channel records (R34 to
R37), and the register map of the window (R29, R38). -/

namespace Sys2Proof.Machine

/-- The RESULT codes (R33). -/
inductive Result where
  | ok
  | endOfInput
  | needChunk
  | error
  | illegal
  | state
  deriving DecidableEq, Repr

/-- The code of a RESULT (R33). -/
def Result.code : Result → BitVec 4
  | .ok => 0
  | .endOfInput => 1
  | .needChunk => 2
  | .error => 3
  | .illegal => 4
  | .state => 5

/-- The ERRKIND code of an error kind (R240). -/
def ErrKind.code : ErrKind → BitVec 4
  | .invalidLength => 1
  | .illegalChar => 2
  | .corrupt => 3
  | .upstream => 4

/-- The two fields of the last command word that `Finish` copies into STATUS: bits 1:0 and 7:4 (R32). -/
structure CmdId where
  eng : BitVec 2
  op  : BitVec 4
  deriving DecidableEq, Repr

/-- The identification of a legal command. -/
def cmdId (e : Engine) (o : Op) : CmdId :=
  { eng := e.code, op := o.code }

/-- The identification of any command word, legal or not (R76). -/
def cmdIdOfWord (w : Word) : CmdId :=
  { eng := engField w, op := opField w }

/-- The STATUS word (R32): RESULT in bits 3:0, ERRKIND in 7:4, ENG in 9:8, OP in 15:12, else 0. -/
def statusWord (c : CmdId) (r : Result) (kind : BitVec 4) : Word :=
  place r.code 0 ||| place kind 4 ||| place c.eng 8 ||| place c.op 12

/-- RESULT, bits 3:0 of STATUS (R32). -/
def statusResult (w : Word) : BitVec 4 := w.extractLsb' 0 4

/-- ERRKIND, bits 7:4 of STATUS (R32). -/
def statusErrKind (w : Word) : BitVec 4 := w.extractLsb' 4 4

/-- ENG, bits 9:8 of STATUS (R32). -/
def statusEng (w : Word) : BitVec 2 := w.extractLsb' 8 2

/-- Bits 11:10 of STATUS, which read 0 (R32). -/
def statusGap (w : Word) : BitVec 2 := w.extractLsb' 10 2

/-- OP, bits 15:12 of STATUS (R32). -/
def statusOp (w : Word) : BitVec 4 := w.extractLsb' 12 4

/-- Bits 31:16 of STATUS, which read 0 (R32). -/
def statusHigh (w : Word) : BitVec 16 := w.extractLsb' 16 16

/-- The 2-bit code of an encoder channel's state (R23). -/
def EncSt.code : EncSt → BitVec 2
  | .idle => 0
  | .opened => 1
  | .closed => 2
  | .failed _ => 3

/-- The 2-bit code of a decoder channel's state (R23). -/
def DecSt.code : DecSt → BitVec 2
  | .idle => 0
  | .opened => 1
  | .eof => 2
  | .failed _ => 3

/-- RCNT, the number of residual bytes, as the 2-bit field of R34 and R35. -/
def residualCount (c : EncChannel) : BitVec 2 :=
  BitVec.ofNat 2 c.res.length

/-- E45_CH (R34): ST in bits 1:0, RCNT in 5:4, RB0 in 15:8; RB0 reads 0 where there is no residual. -/
def viewE45 (c : EncChannel) : Word :=
  place c.st.code 0 ||| place (residualCount c) 4 ||| place (c.res.getD 0 0) 8

/-- E85_CH (R35): ST in bits 1:0, RCNT in 5:4, RB0 in 15:8, RB1 in 23:16, RB2 in 31:24; a byte the
residual does not hold reads 0. -/
def viewE85 (c : EncChannel) : Word :=
  place c.st.code 0 ||| place (residualCount c) 4 ||| place (c.res.getD 0 0) 8 |||
    place (c.res.getD 1 0) 16 ||| place (c.res.getD 2 0) 24

/-- E91_CH (R36): ST in bits 1:0, NBITS in 7:4, ACC in 20:8. -/
def viewE91 (c : EncChannel) : Word :=
  place c.st.code 0 ||| place c.nbits 4 ||| place c.acc 8

/-- PLEN, the number of pending bytes, as the 28-bit field of R37. -/
def pendingCount (c : DecChannel) : BitVec 28 :=
  BitVec.ofNat 28 c.pend.length

/-- D45_CH, D85_CH and D91_CH (R37): ST in bits 1:0, PLEN in 31:4. -/
def viewDec (c : DecChannel) : Word :=
  place c.st.code 0 ||| place (pendingCount c) 4

/-- What a 32-bit read of the register at a window offset returns (R29): CMD, the reserved offsets and
everything else read 0 (R31, R38). -/
def State.readRegister (s : State) (offset : Nat) : Word :=
  if offset = 0x04 then s.status
  else if offset = 0x08 then s.count
  else if offset = 0x0C then s.errPos
  else if offset = 0x10 then s.errAux
  else if offset = 0x20 then viewE45 s.enc.b45
  else if offset = 0x24 then viewE85 s.enc.b85
  else if offset = 0x28 then viewE91 s.enc.b91
  else if offset = 0x30 then viewDec s.dec.b45
  else if offset = 0x34 then viewDec s.dec.b85
  else if offset = 0x38 then viewDec s.dec.b91
  else 0

end Sys2Proof.Machine
end

