-- ==== Sys2Proof/Machine/Operands.lean ====
section
/-! DEFINITION. What a command works on: its payload on the data-in port (20_memory.md rule R51), the three
alphabets and their inverse maps (41_base45.md R140 and R141, 42_base85.md R170 and R171, 43_base91.md R200
and R201), and the parameter values of 00_scope.md rule R6. -/

namespace Sys2Proof.Machine

/-- The payload on the data-in port: that of the command transaction the host presents (R51), and no
bytes when it presents none. -/
def State.dataIn (s : State) : List Byte :=
  match s.hostQueue with
  | .command _ payload :: _ => payload
  | _ => []

/-- An error value with natural-number position and auxiliary value (R28: 32-bit naturals). -/
def ErrorValue.of (kind : ErrKind) (pos aux : Nat) : ErrorValue :=
  { kind := kind, pos := BitVec.ofNat 32 pos, aux := BitVec.ofNat 32 aux }

/-- The character at a value of an ordered alphabet (R7, R9). Every value a conversion uses is inside its
alphabet; past its end the answer 0 is never used. -/
def charOf (alphabet : List Byte) (v : Nat) : Byte :=
  alphabet.getD v 0

/-- The value of a character: its 0-based index in the alphabet. -/
def valueOf? (alphabet : List Byte) (c : Byte) : Option Nat :=
  alphabet.idxOf? c

/-- `ALPH45` (R140): digits, letters, then the nine signs in the rule's order. -/
def alph45 : List Byte :=
  [0x30, 0x31, 0x32, 0x33, 0x34, 0x35, 0x36, 0x37, 0x38, 0x39] ++
  [0x41, 0x42, 0x43, 0x44, 0x45, 0x46, 0x47, 0x48, 0x49, 0x4A, 0x4B, 0x4C, 0x4D] ++
  [0x4E, 0x4F, 0x50, 0x51, 0x52, 0x53, 0x54, 0x55, 0x56, 0x57, 0x58, 0x59, 0x5A] ++
  [0x20, 0x24, 0x25, 0x2A, 0x2B, 0x2D, 0x2E, 0x2F, 0x3A]

/-- `VAL45` (R141); `none` is INVALID. -/
def val45 (c : Byte) : Option Nat :=
  valueOf? alph45 c

/-- `ALPH85[i]`, the byte `0x21 + i` (R170). -/
def char85 (i : Nat) : Byte :=
  BitVec.ofNat 8 (0x21 + i)

/-- The shorthand `z` (R170). -/
def shorthand85 : Byte := 0x7A

/-- What a character is to the base-85 decoder (R171). -/
inductive Val85 where
  | digit (v : Nat)
  | shorthand
  | invalid
  deriving DecidableEq, Repr

/-- `VAL85` (R171). -/
def val85 (c : Byte) : Val85 :=
  if 0x21 ≤ c.toNat ∧ c.toNat ≤ 0x75 then .digit (c.toNat - 0x21)
  else if c = shorthand85 then .shorthand
  else .invalid

/-- The default `B91_ALPHABET`, the basE91 alphabet (R200, D20; log entry 4). -/
def alph91 : List Byte :=
  [0x41, 0x42, 0x43, 0x44, 0x45, 0x46, 0x47, 0x48, 0x49, 0x4A] ++
  [0x4B, 0x4C, 0x4D, 0x4E, 0x4F, 0x50, 0x51, 0x52, 0x53, 0x54] ++
  [0x55, 0x56, 0x57, 0x58, 0x59, 0x5A, 0x61, 0x62, 0x63, 0x64] ++
  [0x65, 0x66, 0x67, 0x68, 0x69, 0x6A, 0x6B, 0x6C, 0x6D, 0x6E] ++
  [0x6F, 0x70, 0x71, 0x72, 0x73, 0x74, 0x75, 0x76, 0x77, 0x78] ++
  [0x79, 0x7A, 0x30, 0x31, 0x32, 0x33, 0x34, 0x35, 0x36, 0x37] ++
  [0x38, 0x39, 0x21, 0x23, 0x24, 0x25, 0x26, 0x28, 0x29, 0x2A] ++
  [0x2B, 0x2C, 0x2E, 0x2F, 0x3A, 0x3B, 0x3C, 0x3D, 0x3E, 0x3F] ++
  [0x40, 0x5B, 0x5D, 0x5E, 0x5F, 0x60, 0x7B, 0x7C, 0x7D, 0x7E] ++
  [0x22]

/-- The base-91 parameters of this hardware (R6): the default alphabet, the OPEN sentinel,
`B91_SEED13 = false` and `B91_CLOSE_W = 7`. -/
def b91Params : Config.B91Params where
  alphabet   := alph91
  sentinel   := Config.b91Sentinel
  seed13     := false
  closeWidth := 7

/-- `VAL91` (R201): never INVALID, the sentinel for every byte outside the alphabet. -/
def val91 (p : Config.B91Params) (c : Byte) : Nat :=
  (valueOf? p.alphabet c).getD p.sentinel.toNat

end Sys2Proof.Machine
end

