-- ==== Sys2Proof/Machine/Ops.lean ====
section
/-! DEFINITION. The named operations every command is made of: `Emit` and `Finish` (00_scope.md R10, 10_state.md
R32, 20_memory.md R52), the transaction's payload check (R73), the channel checks (40_streaming.md R101 and
R102), how an error is saved and how a channel recovers from it (60_exceptions.md R244 and R246), and the
shapes the commands of the engines share. -/

namespace Sys2Proof.Machine

/-- `enc[e] <- c` (R10). -/
def State.setEnc (s : State) (e : Engine) (c : EncChannel) : State :=
  { s with enc := s.enc.set e c }

/-- `dec[e] <- c` (R10). -/
def State.setDec (s : State) (e : Engine) (c : DecChannel) : State :=
  { s with dec := s.dec.set e c }

/-- `Emit(bytes)` (R10, R52). -/
def State.emit (s : State) (bytes : List Byte) : State :=
  { s with out := s.out ++ bytes }

/-- `Finish(result, kind, pos, aux, count)` (R32): write the result registers. With it the transaction is
complete (R31), so the host action that carried it is no longer pending. -/
def State.finish (s : State) (c : CmdId) (r : Result) (kind : BitVec 4) (pos aux : Word) (count : Nat) :
    State :=
  { s with
    status := statusWord c r kind
    count := BitVec.ofNat 32 count
    errPos := pos
    errAux := aux
    hostQueue := s.hostQueue.tail }

/-- `Finish(OK, 0, 0, 0, count)`. -/
def State.finishOk (s : State) (c : CmdId) (count : Nat) : State :=
  s.finish c .ok 0 0 0 count

/-- `Finish(r)` for the results that carry neither an error nor a count: END, NEED_CHUNK, ILLEGAL, STATE. -/
def State.finishBare (s : State) (c : CmdId) (r : Result) : State :=
  s.finish c r 0 0 0 0

/-- `Finish(ERROR, kind, pos, aux, 0)`: how every error is reported (R243, R244). -/
def State.finishError (s : State) (c : CmdId) (e : ErrorValue) : State :=
  s.finish c .error e.kind.code e.pos e.aux 0

/-- A command transaction whose word requires `n` payload bytes (R73): the work `k` on its payload, or a
refusal where the payload has another length (R250 (a)). -/
def onTransaction (n : Nat) (s : State) (k : List Byte → State) : Host.Outcome State Fault Refusal :=
  if s.dataIn.length = n then .next (k s.dataIn) else .refused .payloadLength

/-- Taking an error on an encoder channel (R244): the channel latches it, its residual is discarded
(R106, D40), and the result registers report it. -/
def State.failEnc (s : State) (c : CmdId) (e : Engine) (err : ErrorValue) : State :=
  (s.setEnc e { st := .failed err, res := [], acc := 0, nbits := 0 }).finishError c err

/-- Taking an error on a decoder channel (R244): the channel latches it, its pending bytes are discarded
(R111, D40), and the result registers report it. -/
def State.failDec (s : State) (c : CmdId) (e : Engine) (err : ErrorValue) : State :=
  (s.setDec e { st := .failed err, pend := [] }).finishError c err

/-- `CheckEnc(e)` (R101): a latched error is returned unchanged, a channel that is not OPEN gives STATE;
otherwise the command's own work on the channel record. -/
def checkEnc (c : CmdId) (e : Engine) (s : State) (work : EncChannel → State) : State :=
  match (s.enc.get e).st with
  | .failed err => s.finishError c err
  | .idle => s.finishBare c .state
  | .closed => s.finishBare c .state
  | .opened => work (s.enc.get e)

/-- `CheckDec(e, admitted)` (R102): as `checkEnc`; OPEN is always admitted, EOF where `eofAdmitted`. -/
def checkDec (c : CmdId) (e : Engine) (eofAdmitted : Bool) (s : State) (work : DecChannel → State) :
    State :=
  match (s.dec.get e).st with
  | .failed err => s.finishError c err
  | .idle => s.finishBare c .state
  | .eof => if eofAdmitted then work (s.dec.get e) else s.finishBare c .state
  | .opened => work (s.dec.get e)

/-- Emit a command's output and report OK with its length: the end of ENC, EFEED and ECLOSE, and of a DEC
that succeeds. -/
def State.deliver (s : State) (c : CmdId) (bytes : List Byte) : State :=
  (s.emit bytes).finishOk c bytes.length

/-- ENC (R151, R181, R216). -/
def encodeWhole (e : Engine) (text : List Byte) (s : State) : State :=
  s.deliver (cmdId e .enc) text

/-- DEC (R152, R182, R217): an error emits nothing (R245). -/
def decodeWhole (e : Engine) (r : Except ErrorValue (List Byte)) (s : State) : State :=
  match r with
  | .error err => s.finishError (cmdId e .dec) err
  | .ok bytes => s.deliver (cmdId e .dec) bytes

/-- EFEED (R153, R183, R218): `feed` gives the channel record after the payload and the characters to emit. -/
def feedChannel (e : Engine) (feed : EncChannel → EncChannel × List Byte) (s : State) : State :=
  checkEnc (cmdId e .efeed) e s fun ch =>
    (s.setEnc e (feed ch).1).deliver (cmdId e .efeed) (feed ch).2

/-- The channel record after every ECLOSE (R105). -/
def EncChannel.closedRecord : EncChannel :=
  { st := .closed, res := [], acc := 0, nbits := 0 }

/-- ECLOSE (R154, R184, R219, R105): `flush` gives the characters of the residual. -/
def closeChannel (e : Engine) (flush : EncChannel → List Byte) (s : State) : State :=
  checkEnc (cmdId e .eclose) e s fun ch =>
    (s.setEnc e .closedRecord).deliver (cmdId e .eclose) (flush ch)

/-- DCHUNK (R155, R185, R220, R108): STATE while bytes are pending; else the decoded chunk becomes the
pending buffer, or its error is latched. OUT is unchanged and COUNT is the number of bytes put there. -/
def chunkChannel (e : Engine) (r : Except ErrorValue (List Byte)) (s : State) : State :=
  checkDec (cmdId e .dchunk) e false s fun ch =>
    if ch.pend ≠ [] then s.finishBare (cmdId e .dchunk) .state
    else
      match r with
      | .error err => s.failDec (cmdId e .dchunk) e err
      | .ok bytes => (s.setDec e { ch with pend := bytes }).finishOk (cmdId e .dchunk) bytes.length

/-- EOPEN (R104): a new encoder instance in every channel state; this is also the only recovery of a
FAILED encoder channel (R246). -/
def openEnc (e : Engine) (s : State) : State :=
  (s.setEnc e { st := .opened, res := [], acc := 0, nbits := 0 }).finishOk (cmdId e .eopen) 0

/-- EFAIL (R106): the sink's failure is latched with its code. -/
def reportSinkFailure (e : Engine) (code : Len) (s : State) : State :=
  checkEnc (cmdId e .efail) e s fun _ =>
    s.failEnc (cmdId e .efail) e { kind := .upstream, pos := 0, aux := code.setWidth 32 }

/-- DOPEN (R107): a new decoder instance in every channel state; this is also the only recovery of a
FAILED decoder channel (R246). -/
def openDec (e : Engine) (s : State) : State :=
  (s.setDec e { st := .opened, pend := [] }).finishOk (cmdId e .dopen) 0

/-- DREAD (R109): deliver up to `n` pending bytes; with none pending, END at the end of the source and
NEED_CHUNK before it. -/
def readPending (e : Engine) (n : Len) (s : State) : State :=
  checkDec (cmdId e .dread) e true s fun ch =>
    if ch.pend ≠ [] then
      (s.setDec e { ch with pend := ch.pend.drop n.toNat }).deliver (cmdId e .dread)
        (ch.pend.take n.toNat)
    else if ch.st = .eof then s.finishBare (cmdId e .dread) .endOfInput
    else s.finishBare (cmdId e .dread) .needChunk

/-- DEOF (R110): the source is at its end; pending bytes stay deliverable. -/
def endSource (e : Engine) (s : State) : State :=
  checkDec (cmdId e .deof) e false s fun ch =>
    (s.setDec e { ch with st := .eof }).finishOk (cmdId e .deof) 0

/-- DFAIL (R111): the source's failure is latched with its code. -/
def reportSourceFailure (e : Engine) (code : Len) (s : State) : State :=
  checkDec (cmdId e .dfail) e true s fun _ =>
    s.failDec (cmdId e .dfail) e { kind := .upstream, pos := 0, aux := code.setWidth 32 }

/-- An ILLEGAL command word (R76): the payload its OP would carry is discarded (R77), and only the result
registers change. -/
def answerIllegal (w : Word) (s : State) : Host.Outcome State Fault Refusal :=
  onTransaction (payloadLength w) s fun _ => s.finishBare (cmdIdOfWord w) .illegal

end Sys2Proof.Machine
end

