-- ==== Sys2Proof/Machine/Base45.lean ====
section
/-! DEFINITION. The base-45 radix converter, ENG 0 (41_base45.md rules R142 to R155): its pure conversions, and
the meanings of B45.ENC, B45.DEC, B45.EFEED, B45.ECLOSE and B45.DCHUNK. -/

namespace Sys2Proof.Machine

/-- `ENC45_PAIR` (R142). -/
def enc45Pair (b0 b1 : Byte) : List Byte :=
  let n := b0.toNat * 256 + b1.toNat
  let v := n / 2025
  let x := n % 2025
  let d := x / 45
  let c := x % 45
  [charOf alph45 c, charOf alph45 d, charOf alph45 v]

/-- `ENC45_SINGLE` (R143). -/
def enc45Single (b0 : Byte) : List Byte :=
  let n := b0.toNat
  let d := n / 45
  let c := n % 45
  [charOf alph45 c, charOf alph45 d]

/-- The loop of `FEED45` (R144): convert whole pairs from the front; the rest is the new residual. -/
def encodePairs45 : List Byte → List Byte × List Byte
  | b0 :: b1 :: rest =>
    let r := encodePairs45 rest
    (r.1, enc45Pair b0 b1 ++ r.2)
  | [b0] => ([b0], [])
  | [] => ([], [])

/-- `FEED45(res, s)` (R144): the new residual and the characters to emit. -/
def feed45 (res payload : List Byte) : List Byte × List Byte :=
  encodePairs45 (res ++ payload)

/-- `CLOSE45(res)` (R145). -/
def close45 : List Byte → List Byte
  | [] => []
  | b0 :: _ => enc45Single b0

/-- `ENC45(s)` (R146). -/
def enc45 (bytes : List Byte) : List Byte :=
  (feed45 [] bytes).2 ++ close45 (feed45 [] bytes).1

/-- The second check of `DEC45` (R147): the values of the characters from position `p` on, or the
illegal character of lowest position. -/
def values45 : (p : Nat) → List Byte → Except ErrorValue (List Nat)
  | _, [] => .ok []
  | p, c :: rest =>
    match val45 c with
    | none => .error (.of .illegalChar p c.toNat)
    | some v => (values45 (p + 1) rest).map (v :: ·)

/-- The loop of `DEC45` (R147) from group `g` on. One value alone never remains: the length check came
first. -/
def decodeGroups45 : (g : Nat) → List Nat → Except ErrorValue (List Byte)
  | g, v0 :: v1 :: v2 :: rest =>
    let n := v0 + v1 * 45 + v2 * 2025
    if n > 65535 then .error (.of .corrupt g 0)
    else (decodeGroups45 (g + 1) rest).map ([BitVec.ofNat 8 (n / 256), BitVec.ofNat 8 (n % 256)] ++ ·)
  | g, [v0, v1] =>
    let n := v0 + v1 * 45
    if n > 255 then .error (.of .corrupt g 0) else .ok [BitVec.ofNat 8 n]
  | _, [_] => .ok []
  | _, [] => .ok []

/-- `DEC45(t)` (R147, R148). -/
def dec45 (text : List Byte) : Except ErrorValue (List Byte) :=
  if text.length % 3 = 1 then .error (.of .invalidLength text.length (text.length % 3))
  else
    match values45 0 text with
    | .error e => .error e
    | .ok vs => decodeGroups45 0 vs

/-- B45.ENC (R151). -/
def execB45Enc (len : Len) (s : State) : Host.Outcome State Fault Refusal :=
  onTransaction len.toNat s fun payload => encodeWhole .b45 (enc45 payload) s

/-- B45.DEC (R152). -/
def execB45Dec (len : Len) (s : State) : Host.Outcome State Fault Refusal :=
  onTransaction len.toNat s fun payload => decodeWhole .b45 (dec45 payload) s

/-- `enc[0].res <- r` and the characters to emit (R153). -/
def feedRecord45 (payload : List Byte) (ch : EncChannel) : EncChannel × List Byte :=
  ({ ch with res := (feed45 ch.res payload).1 }, (feed45 ch.res payload).2)

/-- B45.EFEED (R153). -/
def execB45Efeed (len : Len) (s : State) : Host.Outcome State Fault Refusal :=
  onTransaction len.toNat s fun payload => feedChannel .b45 (feedRecord45 payload) s

/-- B45.ECLOSE (R154). -/
def execB45Eclose (s : State) : Host.Outcome State Fault Refusal :=
  onTransaction 0 s fun _ => closeChannel .b45 (fun ch => close45 ch.res) s

/-- B45.DCHUNK (R155). -/
def execB45Dchunk (len : Len) (s : State) : Host.Outcome State Fault Refusal :=
  onTransaction len.toNat s fun payload => chunkChannel .b45 (dec45 payload) s

end Sys2Proof.Machine
end

