-- ==== Sys2Proof/Machine/Base85.lean ====
section
/-! DEFINITION. The base-85 radix converter, ENG 1 (42_base85.md rules R172 to R185): its pure conversions, and
the meanings of B85.ENC, B85.DEC, B85.EFEED, B85.ECLOSE and B85.DCHUNK. -/

namespace Sys2Proof.Machine

/-- Four bytes as a 32-bit unsigned integer, big-endian (R53, R172). -/
def bigEndian4 (b0 b1 b2 b3 : Byte) : Nat :=
  b0.toNat <<< 24 ||| b1.toNat <<< 16 ||| b2.toNat <<< 8 ||| b3.toNat

/-- The five characters of a group value, the most significant first (R172). -/
def fiveChars85 (n : Nat) : List Byte :=
  [4, 3, 2, 1, 0].map fun i => char85 (n / 85 ^ i % 85)

/-- `ENC85_GROUP` (R172). -/
def enc85Group (b0 b1 b2 b3 : Byte) : List Byte :=
  let n := bigEndian4 b0 b1 b2 b3
  if n = 0 then [shorthand85] else fiveChars85 n

/-- `ENC85_PARTIAL` (R173): pad on the right with zero bytes and keep `len(g) + 1` characters, never `z`. -/
def enc85Partial (g : List Byte) : List Byte :=
  let n := bigEndian4 (g.getD 0 0) (g.getD 1 0) (g.getD 2 0) (g.getD 3 0)
  (fiveChars85 n).take (g.length + 1)

/-- The loop of `FEED85` (R174): convert whole groups from the front; the rest is the new residual. -/
def encodeGroups85 : List Byte → List Byte × List Byte
  | b0 :: b1 :: b2 :: b3 :: rest =>
    let r := encodeGroups85 rest
    (r.1, enc85Group b0 b1 b2 b3 ++ r.2)
  | short => (short, [])

/-- `FEED85(res, s)` (R174): the new residual and the characters to emit. -/
def feed85 (res payload : List Byte) : List Byte × List Byte :=
  encodeGroups85 (res ++ payload)

/-- `CLOSE85(res)` (R175). -/
def close85 (res : List Byte) : List Byte :=
  if res = [] then [] else enc85Partial res

/-- `ENC85(s)` (R176). -/
def enc85 (bytes : List Byte) : List Byte :=
  (feed85 [] bytes).2 ++ close85 (feed85 [] bytes).1

/-- The value of five digits, the most significant first (R177). -/
def groupValue85 : List Nat → Nat
  | [v0, v1, v2, v3, v4] => v0 * 85 ^ 4 + v1 * 85 ^ 3 + v2 * 85 ^ 2 + v3 * 85 + v4
  | _ => 0

/-- `[n[31:24], n[23:16], n[15:8], n[7:0]]` (R177). -/
def bytesOf32 (n : Nat) : List Byte :=
  [BitVec.ofNat 8 (n >>> 24), BitVec.ofNat 8 (n >>> 16), BitVec.ofNat 8 (n >>> 8), BitVec.ofNat 8 n]

/-- The bytes of a full or padded group `g`, or CORRUPT where its value is above 2^32 - 1 (R177, R178). -/
def decodeGroup85 (g : Nat) (five : List Nat) : Except ErrorValue (List Byte) :=
  let n := groupValue85 five
  if n > 2 ^ 32 - 1 then .error (.of .corrupt g 0) else .ok (bytesOf32 n)

/-- `FINAL85` (R178) at the end of a text of `len` characters, with the open group `grp` of index `g`. -/
def final85 (len g : Nat) (grp : List Nat) : Except ErrorValue (List Byte) :=
  let m := grp.length
  if m = 0 then .ok []
  else if m = 1 then .error (.of .invalidLength len 1)
  else (decodeGroup85 g (grp ++ List.replicate (5 - m) 84)).map (List.take (m - 1))

/-- The scan of `DEC85` (R177) from position `p` on, with the open group `grp` of index `g`. -/
def scan85 : (p g : Nat) → (grp : List Nat) → List Byte → Except ErrorValue (List Byte)
  | p, g, grp, [] => final85 p g grp
  | p, g, grp, c :: rest =>
    match val85 c with
    | .shorthand =>
      if grp ≠ [] then .error (.of .illegalChar p 0x7A)
      else (scan85 (p + 1) (g + 1) [] rest).map ([0, 0, 0, 0] ++ ·)
    | .invalid => .error (.of .illegalChar p c.toNat)
    | .digit v =>
      if grp.length + 1 = 5 then
        match decodeGroup85 g (grp ++ [v]) with
        | .error e => .error e
        | .ok bytes => (scan85 (p + 1) (g + 1) [] rest).map (bytes ++ ·)
      else scan85 (p + 1) g (grp ++ [v]) rest

/-- `DEC85(t)` (R177, R179). -/
def dec85 (text : List Byte) : Except ErrorValue (List Byte) :=
  scan85 0 0 [] text

/-- B85.ENC (R181). -/
def execB85Enc (len : Len) (s : State) : Host.Outcome State Fault Refusal :=
  onTransaction len.toNat s fun payload => encodeWhole .b85 (enc85 payload) s

/-- B85.DEC (R182). -/
def execB85Dec (len : Len) (s : State) : Host.Outcome State Fault Refusal :=
  onTransaction len.toNat s fun payload => decodeWhole .b85 (dec85 payload) s

/-- `enc[1].res <- r` and the characters to emit (R183). -/
def feedRecord85 (payload : List Byte) (ch : EncChannel) : EncChannel × List Byte :=
  ({ ch with res := (feed85 ch.res payload).1 }, (feed85 ch.res payload).2)

/-- B85.EFEED (R183). -/
def execB85Efeed (len : Len) (s : State) : Host.Outcome State Fault Refusal :=
  onTransaction len.toNat s fun payload => feedChannel .b85 (feedRecord85 payload) s

/-- B85.ECLOSE (R184). -/
def execB85Eclose (s : State) : Host.Outcome State Fault Refusal :=
  onTransaction 0 s fun _ => closeChannel .b85 (fun ch => close85 ch.res) s

/-- B85.DCHUNK (R185). -/
def execB85Dchunk (len : Len) (s : State) : Host.Outcome State Fault Refusal :=
  onTransaction len.toNat s fun payload => chunkChannel .b85 (dec85 payload) s

end Sys2Proof.Machine
end

