-- ==== Sys2Proof/Machine/Base91.lean ====
section
/-! DEFINITION. The base-91 bit-packer, ENG 2 (43_base91.md rules R202 to R220): its pure conversions over the
parameters of rule R6, and the meanings of B91.ENC, B91.DEC, B91.EFEED, B91.ECLOSE and B91.DCHUNK. -/

namespace Sys2Proof.Machine

/-- The two characters of an emitted value (R202). -/
def pairChars91 (p : Config.B91Params) (ev : Nat) : List Byte :=
  [charOf p.alphabet (ev % 91), charOf p.alphabet (ev / 91)]

/-- The loop of `STEP91` (R202) with threshold `nbits > 13` (R203). It runs at most `fuel` times; each
turn takes at least 13 bits, so a fuel of `nbits` never cuts it short. -/
def drainPairs91 (p : Config.B91Params) : (fuel acc nbits : Nat) → (Nat × Nat) × List Byte
  | 0, acc, nbits => ((acc, nbits), [])
  | fuel + 1, acc, nbits =>
    if nbits > 13 then
      let low13 := acc &&& 8191
      if low13 > 88 then
        let r := drainPairs91 p fuel (acc >>> 13) (nbits - 13)
        (r.1, pairChars91 p low13 ++ r.2)
      else
        let r := drainPairs91 p fuel (acc >>> 14) (nbits - 14)
        (r.1, pairChars91 p (acc &&& 16383) ++ r.2)
    else ((acc, nbits), [])

/-- `STEP91((acc, nbits), b)` (R202). -/
def step91 (p : Config.B91Params) (st : Nat × Nat) (b : Byte) : (Nat × Nat) × List Byte :=
  drainPairs91 p (st.2 + 8) (st.1 ||| b.toNat <<< st.2) (st.2 + 8)

/-- `FEED91(st, s)` (R204). -/
def feed91 (p : Config.B91Params) : (st : Nat × Nat) → List Byte → (Nat × Nat) × List Byte
  | st, [] => (st, [])
  | st, b :: rest =>
    let r := step91 p st b
    let t := feed91 p r.1 rest
    (t.1, r.2 ++ t.2)

/-- `CLOSE91((acc, nbits))` (R206). -/
def close91 (p : Config.B91Params) (acc nbits : Nat) : List Byte :=
  if nbits = 0 then []
  else
    charOf p.alphabet (acc % 91) ::
      (if nbits > p.closeWidth ∨ acc > 90 then [charOf p.alphabet (acc / 91)] else [])

/-- `ENC91(s)` (R207). -/
def enc91 (p : Config.B91Params) (bytes : List Byte) : List Byte :=
  let r := feed91 p (0, 0) bytes
  r.2 ++ close91 p r.1.1 r.1.2

/-- The loop of `PAIR91` (R208): take whole bytes from the accumulator. A fuel of `nbits` never cuts it
short. -/
def drainBytes91 : (fuel acc nbits : Nat) → (Nat × Nat) × List Byte
  | 0, acc, nbits => ((acc, nbits), [])
  | fuel + 1, acc, nbits =>
    if nbits ≥ 8 then
      let r := drainBytes91 fuel (acc >>> 8) (nbits - 8)
      (r.1, BitVec.ofNat 8 (acc &&& 0xFF) :: r.2)
    else ((acc, nbits), [])

/-- The bits a pair of value `d` credits (R208). -/
def creditedBits91 (d : Nat) : Nat :=
  if d &&& 8191 > 88 then 13 else 14

/-- `PAIR91(acc, nbits, v1, v2)` (R208), with the literal seed case where the parameter asks for it
(R209). -/
def pair91 (p : Config.B91Params) (acc nbits v1 v2 : Nat) : (Nat × Nat) × List Byte :=
  let d := v1 + v2 * 91
  if p.seed13 ∧ nbits = 0 then drainBytes91 13 d 13
  else
    drainBytes91 (nbits + creditedBits91 d) (acc ||| d <<< nbits) (nbits + creditedBits91 d)

/-- `FINAL91(acc, nbits, pv)` (R210). -/
def final91 (acc nbits : Nat) : (pv : Option Nat) → List Byte
  | some v => [BitVec.ofNat 8 ((acc ||| v <<< nbits) &&& 0xFF)]
  | none => if acc ≠ 0 then [BitVec.ofNat 8 (acc &&& 0xFF)] else []

/-- The loop of `DEC91` (R211). -/
def scan91 (p : Config.B91Params) : (acc nbits : Nat) → (pv : Option Nat) → List Byte → List Byte
  | acc, nbits, pv, [] => final91 acc nbits pv
  | acc, nbits, none, c :: rest => scan91 p acc nbits (some (val91 p c)) rest
  | acc, nbits, some v, c :: rest =>
    let r := pair91 p acc nbits v (val91 p c)
    r.2 ++ scan91 p r.1.1 r.1.2 none rest

/-- `DEC91(t)` (R211): never an error (R212). -/
def dec91 (p : Config.B91Params) (text : List Byte) : List Byte :=
  scan91 p 0 0 none text

/-- B91.ENC (R216). -/
def execB91Enc (len : Len) (s : State) : Host.Outcome State Fault Refusal :=
  onTransaction len.toNat s fun payload => encodeWhole .b91 (enc91 b91Params payload) s

/-- B91.DEC (R217). -/
def execB91Dec (len : Len) (s : State) : Host.Outcome State Fault Refusal :=
  onTransaction len.toNat s fun payload => decodeWhole .b91 (.ok (dec91 b91Params payload)) s

/-- `enc[2].acc <- a; enc[2].nbits <- n` and the characters to emit (R218). -/
def feedRecord91 (payload : List Byte) (ch : EncChannel) : EncChannel × List Byte :=
  let r := feed91 b91Params (ch.acc.toNat, ch.nbits.toNat) payload
  ({ ch with acc := BitVec.ofNat 13 r.1.1, nbits := BitVec.ofNat 4 r.1.2 }, r.2)

/-- B91.EFEED (R218). -/
def execB91Efeed (len : Len) (s : State) : Host.Outcome State Fault Refusal :=
  onTransaction len.toNat s fun payload => feedChannel .b91 (feedRecord91 payload) s

/-- B91.ECLOSE (R219). -/
def execB91Eclose (s : State) : Host.Outcome State Fault Refusal :=
  onTransaction 0 s fun _ =>
    closeChannel .b91 (fun ch => close91 b91Params ch.acc.toNat ch.nbits.toNat) s

/-- B91.DCHUNK (R220). -/
def execB91Dchunk (len : Len) (s : State) : Host.Outcome State Fault Refusal :=
  onTransaction len.toNat s fun payload => chunkChannel .b91 (.ok (dec91 b91Params payload)) s

end Sys2Proof.Machine
end

