-- ==== Sys2Proof/Machine/Streaming.lean ====
section
/-! DEFINITION. The channel commands whose behaviour is the same for every engine (40_streaming.md): EOPEN,
EFAIL, DOPEN, DREAD, DEOF and DFAIL. None carries a payload (R72). -/

namespace Sys2Proof.Machine

/-- B45.EOPEN (R104). -/
def execB45Eopen (s : State) : Host.Outcome State Fault Refusal :=
  onTransaction 0 s fun _ => openEnc .b45 s

/-- B85.EOPEN (R104). -/
def execB85Eopen (s : State) : Host.Outcome State Fault Refusal :=
  onTransaction 0 s fun _ => openEnc .b85 s

/-- B91.EOPEN (R104). -/
def execB91Eopen (s : State) : Host.Outcome State Fault Refusal :=
  onTransaction 0 s fun _ => openEnc .b91 s

/-- B45.EFAIL (R106). -/
def execB45Efail (code : Len) (s : State) : Host.Outcome State Fault Refusal :=
  onTransaction 0 s fun _ => reportSinkFailure .b45 code s

/-- B85.EFAIL (R106). -/
def execB85Efail (code : Len) (s : State) : Host.Outcome State Fault Refusal :=
  onTransaction 0 s fun _ => reportSinkFailure .b85 code s

/-- B91.EFAIL (R106). -/
def execB91Efail (code : Len) (s : State) : Host.Outcome State Fault Refusal :=
  onTransaction 0 s fun _ => reportSinkFailure .b91 code s

/-- B45.DOPEN (R107). -/
def execB45Dopen (s : State) : Host.Outcome State Fault Refusal :=
  onTransaction 0 s fun _ => openDec .b45 s

/-- B85.DOPEN (R107). -/
def execB85Dopen (s : State) : Host.Outcome State Fault Refusal :=
  onTransaction 0 s fun _ => openDec .b85 s

/-- B91.DOPEN (R107). -/
def execB91Dopen (s : State) : Host.Outcome State Fault Refusal :=
  onTransaction 0 s fun _ => openDec .b91 s

/-- B45.DREAD (R109). -/
def execB45Dread (count : Len) (s : State) : Host.Outcome State Fault Refusal :=
  onTransaction 0 s fun _ => readPending .b45 count s

/-- B85.DREAD (R109). -/
def execB85Dread (count : Len) (s : State) : Host.Outcome State Fault Refusal :=
  onTransaction 0 s fun _ => readPending .b85 count s

/-- B91.DREAD (R109). -/
def execB91Dread (count : Len) (s : State) : Host.Outcome State Fault Refusal :=
  onTransaction 0 s fun _ => readPending .b91 count s

/-- B45.DEOF (R110). -/
def execB45Deof (s : State) : Host.Outcome State Fault Refusal :=
  onTransaction 0 s fun _ => endSource .b45 s

/-- B85.DEOF (R110). -/
def execB85Deof (s : State) : Host.Outcome State Fault Refusal :=
  onTransaction 0 s fun _ => endSource .b85 s

/-- B91.DEOF (R110). -/
def execB91Deof (s : State) : Host.Outcome State Fault Refusal :=
  onTransaction 0 s fun _ => endSource .b91 s

/-- B45.DFAIL (R111). -/
def execB45Dfail (code : Len) (s : State) : Host.Outcome State Fault Refusal :=
  onTransaction 0 s fun _ => reportSourceFailure .b45 code s

/-- B85.DFAIL (R111). -/
def execB85Dfail (code : Len) (s : State) : Host.Outcome State Fault Refusal :=
  onTransaction 0 s fun _ => reportSourceFailure .b85 code s

/-- B91.DFAIL (R111). -/
def execB91Dfail (code : Len) (s : State) : Host.Outcome State Fault Refusal :=
  onTransaction 0 s fun _ => reportSourceFailure .b91 code s

end Sys2Proof.Machine
end

