-- ==== Sys2Proof/Machine/Dispatch.lean ====
section
/-! DEFINITION. One arm per command of the opcode map (30_encoding.md rule R79), each a direct call of the
command's meaning. -/

namespace Sys2Proof.Machine

def exec (i : Instr) (s : State) : Host.Outcome State Fault Refusal :=
  match i with
  | .b45Enc len => Sys2Proof.Machine.execB45Enc len s
  | .b85Enc len => Sys2Proof.Machine.execB85Enc len s
  | .b91Enc len => Sys2Proof.Machine.execB91Enc len s
  | .b45Dec len => Sys2Proof.Machine.execB45Dec len s
  | .b85Dec len => Sys2Proof.Machine.execB85Dec len s
  | .b91Dec len => Sys2Proof.Machine.execB91Dec len s
  | .b45Eopen => Sys2Proof.Machine.execB45Eopen s
  | .b85Eopen => Sys2Proof.Machine.execB85Eopen s
  | .b91Eopen => Sys2Proof.Machine.execB91Eopen s
  | .b45Efeed len => Sys2Proof.Machine.execB45Efeed len s
  | .b85Efeed len => Sys2Proof.Machine.execB85Efeed len s
  | .b91Efeed len => Sys2Proof.Machine.execB91Efeed len s
  | .b45Eclose => Sys2Proof.Machine.execB45Eclose s
  | .b85Eclose => Sys2Proof.Machine.execB85Eclose s
  | .b91Eclose => Sys2Proof.Machine.execB91Eclose s
  | .b45Efail code => Sys2Proof.Machine.execB45Efail code s
  | .b85Efail code => Sys2Proof.Machine.execB85Efail code s
  | .b91Efail code => Sys2Proof.Machine.execB91Efail code s
  | .b45Dopen => Sys2Proof.Machine.execB45Dopen s
  | .b85Dopen => Sys2Proof.Machine.execB85Dopen s
  | .b91Dopen => Sys2Proof.Machine.execB91Dopen s
  | .b45Dchunk len => Sys2Proof.Machine.execB45Dchunk len s
  | .b85Dchunk len => Sys2Proof.Machine.execB85Dchunk len s
  | .b91Dchunk len => Sys2Proof.Machine.execB91Dchunk len s
  | .b45Dread count => Sys2Proof.Machine.execB45Dread count s
  | .b85Dread count => Sys2Proof.Machine.execB85Dread count s
  | .b91Dread count => Sys2Proof.Machine.execB91Dread count s
  | .b45Deof => Sys2Proof.Machine.execB45Deof s
  | .b85Deof => Sys2Proof.Machine.execB85Deof s
  | .b91Deof => Sys2Proof.Machine.execB91Deof s
  | .b45Dfail code => Sys2Proof.Machine.execB45Dfail code s
  | .b85Dfail code => Sys2Proof.Machine.execB85Dfail code s
  | .b91Dfail code => Sys2Proof.Machine.execB91Dfail code s

end Sys2Proof.Machine
end

