-- ==== Sys2Proof/Machine/Bus.lean ====
section
/-! DEFINITION. The host's side of the block: command transactions (30_encoding.md R73 to R77), register reads
and writes (20_memory.md R54, R55, R58), draining OUT (R52), the reset input (70_reset_and_hazards.md R272),
and what one step does with the host's next action. -/

namespace Sys2Proof.Machine

/-- The window offset of a register access, where it is admitted: an aligned 32-bit access inside the
window (R54, R58). -/
def registerOffset? (addr width : Nat) : Option Nat :=
  if width = 4 ∧ Config.rcbBase ≤ addr ∧ addr < Config.rcbBase + Config.windowBytes ∧
      (addr - Config.rcbBase) % 4 = 0 then
    some (addr - Config.rcbBase)
  else none

/-- A write of the word `w` to CMD (R31): the decoded command, or the ILLEGAL answer (R75, R76). -/
def runCommandWord (w : Word) (s : State) : Host.Outcome State Fault Refusal :=
  match decodeWord w with
  | .ok i => exec i s
  | .error _ => answerIllegal w s

/-- The pending host action is done and returned `reply`. -/
def State.complete (s : State) (reply : Reply) : State :=
  { s with hostQueue := s.hostQueue.tail, reply := reply }

/-- A register read (R54, R55): its value goes to the host and no block state changes. -/
def readAccess (addr width : Nat) (s : State) : Host.Outcome State Fault Refusal :=
  match registerOffset? addr width with
  | some o => .next (s.complete (.word (s.readRegister o)))
  | none => .refused .registerAccess

/-- A register write with nothing on the data-in port (R54, R55): at CMD it issues a command; a read-only
or reserved register ignores it (R38). -/
def writeAccess (addr width : Nat) (value : Word) (s : State) : Host.Outcome State Fault Refusal :=
  match registerOffset? addr width with
  | some o => if o = 0 then runCommandWord value s else .next (s.complete s.reply)
  | none => .refused .registerAccess

/-- The host takes bytes from the front of OUT, in order (R52). -/
def drainOut (count : Option Nat) (s : State) : State :=
  let n := count.getD s.out.length
  { s.complete (.bytes (s.out.take n)) with out := s.out.drop n }

/-- The reset input (R272): the block takes the reset state; what the host does next is not the block's. -/
def assertReset (s : State) : State :=
  { State.reset with hostQueue := s.hostQueue.tail, reply := s.reply }

/-- One host action, performed as one indivisible step (R56). -/
def performAction (a : HostAction) (s : State) : Host.Outcome State Fault Refusal :=
  match a with
  | .command w _ => runCommandWord w s
  | .read addr width => readAccess addr width s
  | .write addr width value => writeAccess addr width value s
  | .drain count => .next (drainOut count s)
  | .reset => .next (assertReset s)
  | .otherHost => .refused .secondHost

/-- One step: the host's next action (R60); with none pending the block is idle and keeps all its state
(R265). -/
def serviceHost (s : State) : Host.Outcome State Fault Refusal :=
  match s.hostQueue with
  | [] => .next s
  | a :: _ => performAction a s

/-- A transaction of the word `w` with a payload of zero bytes of the length it requires (R73, R77; log
entry 5). -/
def zeroPayloadTransaction (w : Word) : HostAction :=
  .command w (List.replicate (payloadLength w) 0)

end Sys2Proof.Machine
end

