-- ==== Sys2Proof/Machine/Step.lean ====
section
/-! DEFINITION. The step of the block, and how a command word is placed where the next step takes it: as the
host's next action (10_state.md rules R21 and R31; log entries 3 and 5). -/

namespace Sys2Proof.Machine

/-- One step of the block: it performs the host's next action (R21, R60). -/
def step (s : State) : Host.Outcome State Fault Refusal :=
  serviceHost s

/-- `s` with the command word made of the low `nbits` bits of `w` as the host's next action, with the
payload its transaction must carry (zero bytes). -/
def State.withFetchWord (s : State) (nbits w : Nat) : State :=
  { s with
    hostQueue := zeroPayloadTransaction (BitVec.ofNat 32 (w % 2 ^ nbits)) :: s.hostQueue }

end Sys2Proof.Machine
end

