-- ==== Sys2Proof/Machine/Assembler.lean ====
section
/-! DEFINITION. The host's notation for command sequences (30_encoding.md section 7): the assembler syntax of
rule R81, the pseudo-instructions of rule R82 with their expansions, and what performing them does to the
block. The repetition in SDEC is host control flow (R80, R82), so it is a function of the block's state. -/

namespace Sys2Proof.Machine

/-! The expansions of R82. -/

/-- The host action that issues a command with its payload. -/
def hostAction (x : Transaction) : HostAction :=
  .command (encode x.instr) x.payload

/-- The transaction of an operation that carries `payload` (R73): LEN is its length. LEN holds 24 bits, so a
payload of 2^24 bytes or more gets a LEN that is not its length, and performing it is refused (R250 (a)); only
a part of SENC or SDEC can be so long (DESIGN CHOICE, log entry 17). -/
def payloadTransaction (o : Op) (e : Engine) (payload : List Byte) : Transaction :=
  { instr := .ofFields o e (BitVec.ofNat 24 payload.length), payload := payload }

/-- The transaction of an operation without a payload, with the LEN operand `n`. -/
def bareTransaction (o : Op) (e : Engine) (n : Nat) : Transaction :=
  { instr := .ofFields o e (BitVec.ofNat 24 n), payload := [] }

/-- `SENC p1, ..., pk` (R82): EOPEN, one EFEED for each part, ECLOSE. -/
def streamEncode (e : Engine) (parts : List (List Byte)) : List Transaction :=
  bareTransaction .eopen e 0 ::
    (parts.map (payloadTransaction .efeed e) ++ [bareTransaction .eclose e 0])

/-- The host performs one action at once, before its pending ones. -/
def performNow (a : HostAction) (s : State) : Host.Outcome State Fault Refusal :=
  step { s with hostQueue := a :: s.hostQueue }

/-- Go on with the next state, or stop as before. -/
def andThen (o : Host.Outcome State Fault Refusal) (k : State → Host.Outcome State Fault Refusal) :
    Host.Outcome State Fault Refusal :=
  match o with
  | .next s => k s
  | .fault f => .fault f
  | .refused r => .refused r

/-- The host issues transactions one after another (R60). -/
def issueAll : List Transaction → State → Host.Outcome State Fault Refusal
  | [], s => .next s
  | x :: rest, s => andThen (performNow (hostAction x) s) (issueAll rest)

/-- The PLEN field of the engine's decoder channel register (R37), as the host reads it. -/
def pendingLength (e : Engine) (s : State) : Nat :=
  (pendingCount (s.dec.get e)).toNat

/-- `DREAD 0xFFFFFF` repeated while PLEN is not 0 (R82 SDEC). Every such read takes at least one byte, so a
fuel of the pending length never cuts it short. -/
def readAllPending (e : Engine) : (fuel : Nat) → State → Host.Outcome State Fault Refusal
  | 0, s => .next s
  | fuel + 1, s =>
    if pendingLength e s = 0 then .next s
    else andThen (performNow (hostAction (bareTransaction .dread e 0xFFFFFF)) s) (readAllPending e fuel)

/-- The chunks of `SDEC c1, ..., ck` after its DOPEN (R82): each chunk and the reads of its bytes, stopping
where a chunk's RESULT is not OK; after the last, DEOF and one DREAD. -/
def streamDecodeChunks (e : Engine) : List (List Byte) → State → Host.Outcome State Fault Refusal
  | [], s => issueAll [bareTransaction .deof e 0, bareTransaction .dread e 0xFFFFFF] s
  | c :: rest, s =>
    andThen (performNow (hostAction (payloadTransaction .dchunk e c)) s) fun t =>
      if statusResult t.status ≠ Result.ok.code then .next t
      else andThen (readAllPending e (pendingLength e t) t) (streamDecodeChunks e rest)

/-- `SDEC c1, ..., ck` (R82). -/
def streamDecode (e : Engine) (chunks : List (List Byte)) (s : State) :
    Host.Outcome State Fault Refusal :=
  andThen (performNow (hostAction (bareTransaction .dopen e 0)) s) (streamDecodeChunks e chunks)

/-- One item of a host sequence (R81, R82). -/
inductive AsmItem where
  | command (x : Transaction)
  | senc (e : Engine) (parts : List (List Byte))
  | sdec (e : Engine) (chunks : List (List Byte))
  | drain
  | read (offset : Nat)
  deriving DecidableEq, Repr

/-- What performing an item does to the block. -/
def AsmItem.perform (item : AsmItem) (s : State) : Host.Outcome State Fault Refusal :=
  match item with
  | .command x => performNow (hostAction x) s
  | .senc e parts => issueAll (streamEncode e parts) s
  | .sdec e chunks => streamDecode e chunks s
  | .drain => performNow (.drain none) s
  | .read offset => performNow (.read (Config.rcbBase + offset) 4) s

/-! The text of R81, as bytes (R9). -/

/-- The ASCII bytes of a name (R9). -/
def ascii (name : String) : List Byte :=
  name.toList.map fun c => BitVec.ofNat 8 c.toNat

/-- A letter, digit, dot or underscore: what names and numbers are made of. -/
def isWordByte (c : Byte) : Bool :=
  let v := c.toNat
  (0x30 ≤ v && v ≤ 0x39) || (0x41 ≤ v && v ≤ 0x5A) || (0x61 ≤ v && v ≤ 0x7A) || v == 0x2E || v == 0x5F

/-- The value of a hexadecimal digit, its letter a capital or a small one (DESIGN CHOICE, log entry 19). -/
def hexDigit? (c : Byte) : Option Nat :=
  let v := c.toNat
  if 0x30 ≤ v ∧ v ≤ 0x39 then some (v - 0x30)
  else if 0x41 ≤ v ∧ v ≤ 0x46 then some (v - 0x41 + 10)
  else if 0x61 ≤ v ∧ v ≤ 0x66 then some (v - 0x61 + 10)
  else none

/-- The number of digits `ds` in a base, after the value `v`; `none` at a digit outside the base. -/
def digitsValue? (base : Nat) : (v : Nat) → (ds : List Byte) → Option Nat
  | v, [] => some v
  | v, d :: rest =>
    match hexDigit? d with
    | some n => if n < base then digitsValue? base (v * base + n) rest else none
    | none => none

/-- A count or code: decimal, or hexadecimal after `0x` (R81). Leading zeros are accepted and the `x` is the
small letter alone (DESIGN CHOICE, log entry 19). -/
def number? (w : List Byte) : Option Nat :=
  match w with
  | [] => none
  | [d] => digitsValue? 10 0 [d]
  | a :: b :: rest =>
    if a = 0x30 ∧ b = 0x78 then (if rest = [] then none else digitsValue? 16 0 rest)
    else digitsValue? 10 0 (a :: b :: rest)

/-- One byte of a braced payload: a pair of hexadecimal digits, with or without `0x` (R81; DEDUCED, log
entry 8). -/
def hexPair? (w : List Byte) : Option Byte :=
  match w with
  | [a, b] => (digitsValue? 16 0 [a, b]).map (BitVec.ofNat 8 ·)
  | [z, x, a, b] => if z = 0x30 ∧ x = 0x78 then (digitsValue? 16 0 [a, b]).map (BitVec.ofNat 8 ·) else none
  | _ => none

/-- The rest of a quoted string: its bytes and the text after it. A backslash stands before a double quote
or a backslash and nothing else (R81). Every other byte stands for itself, a byte that is no printable ASCII
character too (DESIGN CHOICE, log entry 19). -/
def quoted? : (escaped : Bool) → List Byte → Option (List Byte × List Byte)
  | _, [] => none
  | true, c :: rest =>
    if c = 0x22 ∨ c = 0x5C then (quoted? false rest).map fun r => (c :: r.1, r.2) else none
  | false, c :: rest =>
    if c = 0x22 then some ([], rest)
    else if c = 0x5C then quoted? true rest
    else (quoted? false rest).map fun r => (c :: r.1, r.2)

/-- The rest of a braced payload: its bytes and the text after it; `w` holds the digits of the byte being
read. R81 shows only `{41 42}` and does not say what separates the pairs: DESIGN CHOICE (log entry 18), one or
more spaces (0x20) do, spaces may also stand after `{` and before `}`, and a tab or pairs without a space
between them, as in `{4142}`, make the text no line. -/
def braced? : (w : List Byte) → List Byte → Option (List Byte × List Byte)
  | _, [] => none
  | w, c :: rest =>
    if c = 0x7D then (if w = [] then some ([], rest) else (hexPair? w).map fun b => ([b], rest))
    else if c = 0x20 then
      (if w = [] then braced? [] rest
      else
        match hexPair? w with
        | some b => (braced? [] rest).map fun r => (b :: r.1, r.2)
        | none => none)
    else braced? (w ++ [c]) rest

/-- The tokens of a line. -/
inductive Token where
  | word (w : List Byte)
  | payload (p : List Byte)
  | comma
  deriving DecidableEq, Repr

/-- The tokens of a line up to its comment (R81); every turn takes a character, so a fuel of its length
never cuts it short. Spaces and tabs separate tokens (DEDUCED, log entry 8), a payload or a comma needs none
beside it, and `--` starts a comment wherever it stands outside a payload (DESIGN CHOICE, log entry 19). -/
def tokens? : (fuel : Nat) → List Byte → Option (List Token)
  | _, [] => some []
  | 0, _ :: _ => none
  | fuel + 1, c :: rest =>
    if c = 0x20 ∨ c = 0x09 then tokens? fuel rest
    else if c = 0x2D then (if rest.head? = some 0x2D then some [] else none)
    else if c = 0x2C then (tokens? fuel rest).map (.comma :: ·)
    else if c = 0x22 then
      match quoted? false rest with
      | some (p, more) => (tokens? fuel more).map (.payload p :: ·)
      | none => none
    else if c = 0x7B then
      match braced? [] rest with
      | some (p, more) => (tokens? fuel more).map (.payload p :: ·)
      | none => none
    else if isWordByte c then
      (tokens? fuel (rest.dropWhile isWordByte)).map (.word (c :: rest.takeWhile isWordByte) :: ·)
    else none

/-- Payloads separated by commas. R82 sets no lower bound on their number: DESIGN CHOICE, the empty list is
accepted (log entry 16). The length of a payload is not checked here: DESIGN CHOICE (log entry 17). -/
def payloadList? : List Token → Option (List (List Byte))
  | [] => some []
  | [.payload p] => some [p]
  | .payload p :: .comma :: rest =>
    if rest = [] then none else (payloadList? rest).map (p :: ·)
  | _ => none

/-- The item of an operation's arguments: nothing, a count or code below 2^24, or a payload shorter than
2^24 bytes (R81, R74). -/
def operands? (o : Op) (e : Engine) (args : List Token) : Option AsmItem :=
  if o.carriesPayload then
    match args with
    | [.payload p] => if p.length < 2 ^ 24 then some (.command (payloadTransaction o e p)) else none
    | _ => none
  else if o.lenMustBeZero then (if args = [] then some (.command (bareTransaction o e 0)) else none)
  else
    match args with
    | [.word w] =>
      match number? w with
      | some n => if n < 2 ^ 24 then some (.command (bareTransaction o e n)) else none
      | none => none
    | _ => none

/-- The engine of a name (R71). -/
def engineNamed? (w : List Byte) : Option Engine :=
  [Engine.b45, .b85, .b91].find? fun e => ascii e.name == w

/-- The operation of a name (R72). -/
def opNamed? (w : List Byte) : Option Op :=
  [Op.enc, .dec, .eopen, .efeed, .eclose, .efail, .dopen, .dchunk, .dread, .deof, .dfail].find?
    fun o => ascii o.name == w

/-- The names and window offsets of the registers (R29). -/
def registerNames : List (String × Nat) :=
  [("CMD", 0x00), ("STATUS", 0x04), ("COUNT", 0x08), ("ERR_POS", 0x0C), ("ERR_AUX", 0x10)] ++
  [("E45_CH", 0x20), ("E85_CH", 0x24), ("E91_CH", 0x28), ("D45_CH", 0x30), ("D85_CH", 0x34),
    ("D91_CH", 0x38)]

/-- The window offset of a register's name (R29). -/
def registerNamed? (w : List Byte) : Option Nat :=
  (registerNames.find? fun r => ascii r.1 == w).map Prod.snd

/-- The item of a word and what follows it (R81, R82). SENC and SDEC take any list of payloads: none at all
(log entry 16), and parts of any length (log entry 17). -/
def item? (name : List Byte) (args : List Token) : Option AsmItem :=
  if name = ascii "DRAIN" then (if args = [] then some .drain else none)
  else if name = ascii "READ" then
    match args with
    | [.word r] => (registerNamed? r).map .read
    | _ => none
  else
    match engineNamed? (name.take 3) with
    | none => none
    | some e =>
      if name.drop 3 = ascii ".ENCODE" then operands? .enc e args
      else if name.drop 3 = ascii ".DECODE" then operands? .dec e args
      else if name.drop 3 = ascii ".SENC" then (payloadList? args).map (.senc e ·)
      else if name.drop 3 = ascii ".SDEC" then (payloadList? args).map (.sdec e ·)
      else if name[3]? = some 0x2E then
        match opNamed? (name.drop 4) with
        | some o => operands? o e args
        | none => none
      else none

/-- One line of R81: no item for an empty line or a comment (the former a DESIGN CHOICE, log entry 19), and
`none` for what is no line. -/
def parseLine (line : List Byte) : Option (List AsmItem) :=
  match tokens? line.length line with
  | none => none
  | some [] => some []
  | some (.word w :: args) => (item? w args).map fun i => [i]
  | some _ => none

end Sys2Proof.Machine
end

