-- ==== Sys2Proof/Safety.lean ====
section
/-! DEFINITION. What counts as a correct host and as a legal state, and the words the statements use: the
invariants of 10_state.md rules R25 and R26, the legal error values of 60_exceptions.md rule R241, the legal
result registers of 10_state.md rules R32 and R33, and what a command reports and leaves alone. -/

namespace Sys2Proof.Machine

/-- A host action the block admits (R250): its payload has the required length, its access is an aligned
32-bit access inside the window, and it comes from the one host. -/
def HostAction.admitted : HostAction → Prop
  | .command w payload => payload.length = payloadLength w
  | .read addr width => ∃ o, registerOffset? addr width = some o
  | .write addr width value =>
    ∃ o, registerOffset? addr width = some o ∧ (o = 0 → payloadLength value = 0)
  | .drain _ => True
  | .reset => True
  | .otherHost => False

/-- The residual limits of one encoder channel: R24's legal values and R25 (a), (b), (c). -/
def residualFits : Engine → EncChannel → Prop
  | .b45, c => c.res.length ≤ 1 ∧ c.acc = 0 ∧ c.nbits = 0
  | .b85, c => c.res.length ≤ 3 ∧ c.acc = 0 ∧ c.nbits = 0
  | .b91, c => c.res = [] ∧ c.nbits.toNat ≤ 13 ∧ c.acc.toNat < 2 ^ c.nbits.toNat

/-- R25 for one encoder channel, with (d): a channel that is not OPEN holds no residual. -/
structure ResidualInv (e : Engine) (c : EncChannel) : Prop where
  fits  : residualFits e c
  quiet : c.st ≠ .opened → c.res = [] ∧ c.acc = 0 ∧ c.nbits = 0

/-- What a latched error of an encoder channel can be (R115, R241): UPSTREAM with a 24-bit failure code. -/
def EncErrInv (c : EncChannel) : Prop :=
  ∀ err, c.st = .failed err → err.kind = .upstream ∧ err.pos = 0 ∧ err.aux.toNat < 2 ^ 24

/-- What each error kind records (R241), for a payload shorter than 2^24 bytes. -/
def ErrorValue.legal (err : ErrorValue) : Prop :=
  match err.kind with
  | .invalidLength => err.pos.toNat < 2 ^ 24 ∧ err.aux = 1
  | .illegalChar => err.pos.toNat < 2 ^ 24 ∧ err.aux.toNat < 256
  | .corrupt => err.pos.toNat < 2 ^ 24 ∧ err.aux = 0
  | .upstream => err.pos = 0 ∧ err.aux.toNat < 2 ^ 24

/-- The largest pending buffer of an engine (R6, R150, R180, R215). -/
def pendLimit : Engine → Nat
  | .b45 => 2 ^ 24 - 1
  | .b85 => 4 * (2 ^ 24 - 1)
  | .b91 => 2 ^ 24 - 1

/-- R26 and R37 for one decoder channel, with what its latched error can be (R240, R241). -/
structure DecInv (e : Engine) (c : DecChannel) : Prop where
  pendEmpty : (c.st = .idle ∨ ∃ err, c.st = .failed err) → c.pend = []
  pendFits  : c.pend.length ≤ pendLimit e
  errLegal  : ∀ err, c.st = .failed err → err.legal ∧ (e = .b91 → err.kind = .upstream)

/-- The result registers as R32, R33 and R240 allow them. -/
structure ResultInv (s : State) : Prop where
  gap        : statusGap s.status = 0
  high       : statusHigh s.status = 0
  resultCode : (statusResult s.status).toNat ≤ 5
  kindCode   : (statusErrKind s.status).toNat ≤ 4
  kindIff    : statusErrKind s.status ≠ 0 ↔ statusResult s.status = Result.error.code
  noError    : statusResult s.status ≠ Result.error.code → s.errPos = 0 ∧ s.errAux = 0
  noCount    : statusResult s.status ≠ Result.ok.code → s.count = 0

/-- The invariant of the block. -/
structure Inv (s : State) : Prop where
  residual : ∀ e, ResidualInv e (s.enc.get e)
  encErr   : ∀ e, EncErrInv (s.enc.get e)
  dec      : ∀ e, DecInv e (s.dec.get e)
  result   : ResultInv s

/-- The result registers say, field by field (R32): this RESULT and ERRKIND for the command with these ENG
and OP codes, this COUNT, ERR_POS and ERR_AUX, and zeros in the unused bits of STATUS. -/
structure Reports (t : State) (c : CmdId) (r : Result) (kind : BitVec 4) (pos aux : Word) (count : Nat) :
    Prop where
  result : statusResult t.status = r.code
  kind   : statusErrKind t.status = kind
  eng    : statusEng t.status = c.eng
  op     : statusOp t.status = c.op
  gap    : statusGap t.status = 0
  high   : statusHigh t.status = 0
  count  : t.count = BitVec.ofNat 32 count
  errPos : t.errPos = pos
  errAux : t.errAux = aux

/-- The command's own identification in STATUS. -/
def cmdIdOf (i : Instr) : CmdId :=
  cmdId i.engine i.op

/-- The host action at the front is done, and the host's last reply is as before. -/
def Consumed (s t : State) : Prop :=
  t.hostQueue = s.hostQueue.tail ∧ t.reply = s.reply

/-- No channel record changes, OUT is as before, and the host action is done: all a command leaves alone
that only reports. -/
structure OnlyReported (s t : State) : Prop where
  enc      : t.enc = s.enc
  dec      : t.dec = s.dec
  out      : t.out = s.out
  consumed : Consumed s t

/-- No channel record changes, OUT grows by `bytes` at its end, and the host action is done. -/
structure OnlyEmitted (s t : State) (bytes : List Byte) : Prop where
  enc      : t.enc = s.enc
  dec      : t.dec = s.dec
  out      : t.out = s.out ++ bytes
  consumed : Consumed s t

/-- Only the encoder channel of engine `e` changes, to the record `c`; OUT grows by `bytes`. -/
structure EncChanged (s t : State) (e : Engine) (c : EncChannel) (bytes : List Byte) : Prop where
  channel  : t.enc.get e = c
  others   : ∀ e', e' ≠ e → t.enc.get e' = s.enc.get e'
  dec      : t.dec = s.dec
  out      : t.out = s.out ++ bytes
  consumed : Consumed s t

/-- Only the decoder channel of engine `e` changes, to the record `c`; OUT grows by `bytes`. -/
structure DecChanged (s t : State) (e : Engine) (c : DecChannel) (bytes : List Byte) : Prop where
  channel  : t.dec.get e = c
  others   : ∀ e', e' ≠ e → t.dec.get e' = s.dec.get e'
  enc      : t.enc = s.enc
  out      : t.out = s.out ++ bytes
  consumed : Consumed s t

/-- The whole-buffer encoding of an engine (R146, R176, R207). -/
def encodeBy : Engine → List Byte → List Byte
  | .b45 => enc45
  | .b85 => enc85
  | .b91 => enc91 b91Params

/-- The whole-buffer decoding of an engine (R147, R177, R211). -/
def decodeBy : Engine → List Byte → Except ErrorValue (List Byte)
  | .b45, t => dec45 t
  | .b85, t => dec85 t
  | .b91, t => .ok (dec91 b91Params t)

/-- The command is answered with this latched error, and nothing else happens (R101, R102). -/
def AnsweredLatched (i : Instr) (s : State) (err : ErrorValue) : Prop :=
  ∃ t, exec i s = .next t ∧ Reports t (cmdIdOf i) .error err.kind.code err.pos err.aux 0 ∧
    OnlyReported s t

/-- The command is answered with this result, without an error or a count, and nothing else happens. -/
def AnsweredBare (i : Instr) (s : State) (r : Result) : Prop :=
  ∃ t, exec i s = .next t ∧ Reports t (cmdIdOf i) r 0 0 0 0 ∧ OnlyReported s t

/-- How a command that needs an OPEN encoder channel is answered on any other (R101): the latched error of
a FAILED channel, STATE on an IDLE or CLOSED one. -/
def EncoderErrors (i : Instr) (s : State) : Prop :=
  (∀ err, (s.enc.get i.engine).st = .failed err → AnsweredLatched i s err) ∧
    ((s.enc.get i.engine).st = .idle ∨ (s.enc.get i.engine).st = .closed → AnsweredBare i s .state)

/-- How a decoder channel command is answered where its channel's state does not admit it (R102): the
latched error of a FAILED channel, STATE on an IDLE one, and on one at EOF unless that is admitted. -/
def DecoderErrors (eofAdmitted : Bool) (i : Instr) (s : State) : Prop :=
  (∀ err, (s.dec.get i.engine).st = .failed err → AnsweredLatched i s err) ∧
    ((s.dec.get i.engine).st = .idle ∨ ((s.dec.get i.engine).st = .eof ∧ eofAdmitted = false) →
      AnsweredBare i s .state)

/-- The host action issues this command: its word, written to CMD, decodes to it (R31, R75). -/
def HostAction.spells : HostAction → Instr → Prop
  | .command w _, i => decodeWord w = .ok i
  | .write addr width w, i => registerOffset? addr width = some 0 ∧ decodeWord w = .ok i
  | .read _ _, _ => False
  | .drain _, _ => False
  | .reset, _ => False
  | .otherHost, _ => False

/-- The number of a base-45 group of characters: weights 1, 45 and 2025 by position (R147). -/
def groupNumber45 : List Byte → Nat
  | [] => 0
  | c :: rest => alph45.idxOf c + 45 * groupNumber45 rest

/-- Group `g` of a base-45 text: three characters, or two at its end (R147). -/
def group45 (text : List Byte) (g : Nat) : List Byte :=
  (text.drop (3 * g)).take 3

/-- Group `g` is above its range: a full group above 65535, a final short group above 255 (R147). -/
def overflows45 (text : List Byte) (g : Nat) : Prop :=
  ((group45 text g).length = 3 ∧ groupNumber45 (group45 text g) > 65535) ∨
    ((group45 text g).length = 2 ∧ groupNumber45 (group45 text g) > 255)

/-- How many characters of a base-85 group are open at the end of a text, from `m` open ones on: `z` leaves
the group as it is, any other character counts, and five characters close it (R177). -/
def openChars85 : (m : Nat) → List Byte → Nat
  | m, [] => m
  | m, c :: rest =>
    if c = shorthand85 then openChars85 m rest else openChars85 ((m + 1) % 5) rest

/-- How many base-85 groups a text closes, with `m` characters open before it: a `z` is one group, and the
fifth character of a group closes it (R177). -/
def closedGroups85 : (m : Nat) → List Byte → Nat
  | _, [] => 0
  | m, c :: rest =>
    if c = shorthand85 then 1 + closedGroups85 m rest
    else if m = 4 then 1 + closedGroups85 0 rest
    else closedGroups85 (m + 1) rest

/-- The characters of the base-85 group that is open at the end of a text (R177). -/
def openGroup85 (text : List Byte) : List Byte :=
  text.drop (text.length - openChars85 0 text)

/-- The byte is one of the 85 value characters, `!` to `u` (R170). -/
def isDigit85 (c : Byte) : Prop :=
  0x21 ≤ c.toNat ∧ c.toNat ≤ 0x75

/-- The number of a base-85 group of characters, the most significant first (R177). -/
def groupNumber85 (chars : List Byte) : Nat :=
  chars.foldl (fun n c => n * 85 + (c.toNat - 0x21)) 0

/-- What is wrong at position `p` of a base-85 text, if nothing before it is (R177): a byte that is no
character, a `z` inside a group, or the fifth character of a group above 2^32 - 1. -/
def scanError85 (text : List Byte) (p : Nat) (err : ErrorValue) : Prop :=
  ∃ c, text[p]? = some c ∧
    ((¬ isDigit85 c ∧ c ≠ shorthand85 ∧ err = .of .illegalChar p c.toNat) ∨
      (c = shorthand85 ∧ openChars85 0 (text.take p) ≠ 0 ∧ err = .of .illegalChar p 0x7A) ∨
      (isDigit85 c ∧ openChars85 0 (text.take p) = 4 ∧
        groupNumber85 (openGroup85 (text.take p) ++ [c]) > 2 ^ 32 - 1 ∧
        err = .of .corrupt (closedGroups85 0 (text.take p)) 0))

/-- What is wrong at the end of a base-85 text, if nothing in it is (R178): a final group of one character,
or one whose number, padded with `u` to five characters, is above 2^32 - 1. -/
def endError85 (text : List Byte) (err : ErrorValue) : Prop :=
  (openChars85 0 text = 1 ∧ err = .of .invalidLength text.length 1) ∨
    (2 ≤ openChars85 0 text ∧
      groupNumber85 (openGroup85 text ++ List.replicate (5 - openChars85 0 text) 0x75) > 2 ^ 32 - 1 ∧
      err = .of .corrupt (closedGroups85 0 text) 0)

/-- The number of bytes read big-endian (R53, R172). -/
def bigEndianNumber (bytes : List Byte) : Nat :=
  bytes.foldl (fun n b => n * 256 + b.toNat) 0

/-- The characters are the five base-85 digits of the number, the most significant first (R172). -/
def AreDigits85 (n : Nat) (chars : List Byte) : Prop :=
  ∃ d4 d3 d2 d1 d0, d4 < 85 ∧ d3 < 85 ∧ d2 < 85 ∧ d1 < 85 ∧ d0 < 85 ∧
    n = d4 * 85 ^ 4 + d3 * 85 ^ 3 + d2 * 85 ^ 2 + d1 * 85 + d0 ∧
    chars = [char85 d4, char85 d3, char85 d2, char85 d1, char85 d0]

/-- The bits the pairs of a base-91 text credit in all, without the seed case (R208). -/
def creditedBits91Of (p : Config.B91Params) : List Byte → Nat
  | c1 :: c2 :: rest => creditedBits91 (val91 p c1 + val91 p c2 * 91) + creditedBits91Of p rest
  | _ => 0

end Sys2Proof.Machine
end

