-- ==== Sys2Proof/Certificates/Slice0/Obligations.lean ====
section
/-! DEFINITION. The statements about the block, each a proposition for the provers. Where a docstring names a
rule of spec/, the statement formalises it. -/

open Sys2Proof Sys2Proof.Machine

/-! Encoding and the step. -/

/-- Decoding the word of any command gives the command back, from the word and from its bytes in the
window's order (30_encoding.md sections 1 to 5). -/
def Obligations.DecodeOfEncodeIsTheCommand : Prop :=
  ∀ i : Instr, decodeWord (encode i) = .ok i ∧
    ∀ rest, decodeBytes (bytesOfWord (encode i) ++ rest) = .ok (i, rest)

/-- A word that decodes to a command is the word that command encodes to: no bit of it is dropped. -/
def Obligations.EncodeOfDecodeIsTheWord : Prop :=
  ∀ (w : Word) (i : Instr), decodeWord w = .ok i → encode i = w

/-- R77: the illegal words are exactly those with RSV not 0, ENG 3, a reserved OP, or LEN not 0 where it
must be 0; and the payload length of any word follows from its OP and LEN. -/
def Obligations.IllegalWordsAreExactlyTheReserved : Prop :=
  ∀ w : Word,
    ((∃ e, decodeWord w = .error e) ↔
      w.toNat / 4 % 4 ≠ 0 ∨ w.toNat % 4 = 3 ∨ w.toNat / 16 % 16 = 0 ∨ w.toNat / 16 % 16 ≥ 12 ∨
        (w.toNat / 16 % 16 ∈ [3, 5, 7, 10] ∧ w.toNat / 256 ≠ 0)) ∧
    payloadLength w = if w.toNat / 16 % 16 ∈ [1, 2, 4, 8] then w.toNat / 256 else 0

/-- R79: every command has a row with its ENG and OP and the mask of its kind; a word that decodes to a
command is accepted by that command's row alone, and an illegal word by no row. The spec marks its last
sentence as derived. -/
def Obligations.EveryWordMatchesOneRowOrIsIllegal : Prop :=
  (∀ i : Instr, ∃ r ∈ opcodeMap, r.mnemonic = i.mnemonic ∧
    r.fixed = (BitVec.ofNat 32 (16 * i.op.code.toNat + i.engine.code.toNat)) ∧
    r.mask = if i.op.lenMustBeZero then 0xFFFFFFFF else 0x000000FF) ∧
  ∀ w : Word,
    (∀ i, decodeWord w = .ok i →
      ∃ r, opcodeMap.filter (fun r => r.accepts w) = [r] ∧ r.mnemonic = i.mnemonic) ∧
    (∀ e, decodeWord w = .error e → opcodeMap.filter (fun r => r.accepts w) = [])

/-- One word of each operation, taken from the spec's examples, decodes to the command it stands for. -/
def Obligations.SpecExampleWordsDecode : Prop :=
  decodeWord 0x00000210 = .ok (.b45Enc 2) ∧ decodeWord 0x00000521 = .ok (.b85Dec 5) ∧
  decodeWord 0x00000030 = .ok .b45Eopen ∧ decodeWord 0x00000442 = .ok (.b91Efeed 4) ∧
  decodeWord 0x00000051 = .ok .b85Eclose ∧ decodeWord 0x00000561 = .ok (.b85Efail 5) ∧
  decodeWord 0x00000072 = .ok .b91Dopen ∧ decodeWord 0x00000582 = .ok (.b91Dchunk 5) ∧
  decodeWord 0x00000190 = .ok (.b45Dread 1) ∧ decodeWord 0x000000A0 = .ok .b45Deof ∧
  decodeWord 0x000010B2 = .ok (.b91Dfail 0x10)

/-- Where the host's next action is a transaction whose word decodes to a command, the step is that
command's `exec` on its payload, and the transaction is done when it completes. Where the next action
stands is the model's choice (log entry 3). -/
def Obligations.StepRunsTheDecodedCommand : Prop :=
  ∀ (s : State) (w : Word) (payload : List Byte) (rest : List HostAction) (i : Instr),
    s.hostQueue = .command w payload :: rest → decodeWord w = .ok i →
    s.dataIn = payload ∧ step s = exec i s ∧ ∀ t, exec i s = .next t → t.hostQueue = rest

/-- R76: an illegal word gives ILLEGAL with its own ENG and OP bits, and changes nothing else. -/
def Obligations.IllegalWordIsAnsweredIllegal : Prop :=
  ∀ (s : State) (w : Word) (payload : List Byte) (rest : List HostAction) (e : DecodeError),
    s.hostQueue = .command w payload :: rest → decodeWord w = .error e →
    payload.length = payloadLength w →
    ∃ t, step s = .next t ∧
      Reports t { eng := w.extractLsb' 0 2, op := w.extractLsb' 4 4 } .illegal 0 0 0 0 ∧
      OnlyReported s t

/-- R250: a transaction with a payload of the wrong length, a register access that is not an aligned 32-bit
access inside the window, and an access of a second host are refused. That a refusal is what these are in
the model, and how a second host is represented, is the model's choice (log entries 3 and 6). -/
def Obligations.ActionsThatAreNoTransactionAreRefused : Prop :=
  (∀ (s : State) (w : Word) (payload : List Byte) (rest : List HostAction),
    s.hostQueue = .command w payload :: rest → payload.length ≠ payloadLength w →
    step s = .refused .payloadLength) ∧
  (∀ (s : State) (addr width : Nat) (rest : List HostAction),
    s.hostQueue = .read addr width :: rest →
    width ≠ 4 ∨ addr < Config.rcbBase ∨ addr ≥ Config.rcbBase + 64 ∨ (addr - Config.rcbBase) % 4 ≠ 0 →
    step s = .refused .registerAccess) ∧
  (∀ (s : State) (addr width : Nat) (value : Word) (rest : List HostAction),
    s.hostQueue = .write addr width value :: rest →
    width ≠ 4 ∨ addr < Config.rcbBase ∨ addr ≥ Config.rcbBase + 64 ∨ (addr - Config.rcbBase) % 4 ≠ 0 →
    step s = .refused .registerAccess) ∧
  (∀ (s : State) (rest : List HostAction),
    s.hostQueue = .otherHost :: rest → step s = .refused .secondHost)

/-- Every admitted host action completes and is then done; with none pending the block keeps all its state.
The pending actions and the idle step are the model's (log entries 3 and 15). -/
def Obligations.AdmittedActionsComplete : Prop :=
  (∀ s : State, s.hostQueue = [] → step s = .next s) ∧
  ∀ (s : State) (a : HostAction) (rest : List HostAction),
    s.hostQueue = a :: rest → a.admitted → ∃ t, step s = .next t ∧ t.hostQueue = rest

/-! The register window. -/

/-- R55: a register read returns the register's value and changes no block state; while the host issues no
command and no reset every register keeps its value, so a second read returns the same; a write to a register
other than CMD has no effect; a write to CMD is a command transaction. That a write to CMD with nothing on
the data-in port is the transaction with an empty payload is the model's reading (log entry 14). -/
def Obligations.RegisterAccessSideEffects : Prop :=
  (∀ (s : State) (o : Nat) (rest : List HostAction), o < 64 → o % 4 = 0 →
    s.hostQueue = .read (Config.rcbBase + o) 4 :: rest →
    step s = .next { s with hostQueue := rest, reply := .word (s.readRegister o) }) ∧
  (∀ (s t : State) (a : HostAction) (rest : List HostAction), s.hostQueue = a :: rest →
    (∃ addr width, a = .read addr width) ∨ (∃ count, a = .drain count) ∨
      (∃ o value, 0 < o ∧ a = .write (Config.rcbBase + o) 4 value) →
    step s = .next t → ∀ o, t.readRegister o = s.readRegister o) ∧
  (∀ (s : State) (o : Nat) (value : Word) (rest : List HostAction), 0 < o → o < 64 → o % 4 = 0 →
    s.hostQueue = .write (Config.rcbBase + o) 4 value :: rest →
    step s = .next { s with hostQueue := rest }) ∧
  (∀ (s : State) (w : Word) (rest : List HostAction),
    s.hostQueue = .write Config.rcbBase 4 w :: rest →
    step s = step { s with hostQueue := .command w [] :: rest })

/-- R38: the reserved offsets read 0, and a write to them or to a read-only register has no effect; and a read
of CMD returns 0 and has no effect (R29, R31). -/
def Obligations.ReservedAndReadOnlyOffsets : Prop :=
  (∀ (s : State) (rest : List HostAction), ∀ o ∈ [0x14, 0x18, 0x1C, 0x2C, 0x3C],
    s.hostQueue = .read (Config.rcbBase + o) 4 :: rest →
    step s = .next { s with hostQueue := rest, reply := .word 0 }) ∧
  (∀ (s : State) (value : Word) (rest : List HostAction),
    ∀ o ∈ [0x04, 0x08, 0x0C, 0x10, 0x14, 0x18, 0x1C, 0x20, 0x24, 0x28, 0x2C, 0x30, 0x34, 0x38, 0x3C],
    s.hostQueue = .write (Config.rcbBase + o) 4 value :: rest →
    step s = .next { s with hostQueue := rest }) ∧
  (∀ (s : State) (rest : List HostAction), s.hostQueue = .read Config.rcbBase 4 :: rest →
    step s = .next { s with hostQueue := rest, reply := .word 0 })

/-- R34, R35 and R36: the fields of E45_CH, E85_CH and E91_CH, for residuals within their limits. -/
def Obligations.EncoderChannelRegisters : Prop :=
  (∀ s : State, residualFits .b45 s.enc.b45 →
    (s.readRegister 0x20).extractLsb' 0 2 = s.enc.b45.st.code ∧
    (s.readRegister 0x20).extractLsb' 2 2 = 0 ∧
    ((s.readRegister 0x20).extractLsb' 4 2).toNat = s.enc.b45.res.length ∧
    (s.readRegister 0x20).extractLsb' 6 2 = 0 ∧
    (∀ b, s.enc.b45.res = [b] → (s.readRegister 0x20).extractLsb' 8 8 = b) ∧
    (s.enc.b45.res = [] → (s.readRegister 0x20).extractLsb' 8 8 = 0) ∧
    (s.readRegister 0x20).extractLsb' 16 16 = 0) ∧
  (∀ s : State, residualFits .b85 s.enc.b85 →
    (s.readRegister 0x24).extractLsb' 0 2 = s.enc.b85.st.code ∧
    (s.readRegister 0x24).extractLsb' 2 2 = 0 ∧
    ((s.readRegister 0x24).extractLsb' 4 2).toNat = s.enc.b85.res.length ∧
    (s.readRegister 0x24).extractLsb' 6 2 = 0 ∧
    ∀ k < 3, (∀ b, s.enc.b85.res[k]? = some b → (s.readRegister 0x24).extractLsb' (8 + 8 * k) 8 = b) ∧
      (s.enc.b85.res[k]? = none → (s.readRegister 0x24).extractLsb' (8 + 8 * k) 8 = 0)) ∧
  (∀ s : State, residualFits .b91 s.enc.b91 →
    (s.readRegister 0x28).extractLsb' 0 2 = s.enc.b91.st.code ∧
    (s.readRegister 0x28).extractLsb' 2 2 = 0 ∧
    (s.readRegister 0x28).extractLsb' 4 4 = s.enc.b91.nbits ∧
    (s.readRegister 0x28).extractLsb' 8 13 = s.enc.b91.acc ∧
    (∀ j, s.enc.b91.nbits.toNat ≤ j → s.enc.b91.acc.getLsbD j = false) ∧
    (s.readRegister 0x28).extractLsb' 21 11 = 0)

/-- R37: the fields of D45_CH, D85_CH and D91_CH, for channels that meet the decoder invariant, which
bounds the pending buffer by 4 x (2^24 - 1) bytes. The spec marks the bound as derived. -/
def Obligations.DecoderChannelRegisters : Prop :=
  ∀ (s : State), ∀ p ∈ [(Engine.b45, 0x30), (Engine.b85, 0x34), (Engine.b91, 0x38)],
    DecInv p.1 (s.dec.get p.1) →
    (s.dec.get p.1).pend.length ≤ 4 * (2 ^ 24 - 1) ∧
    (s.readRegister p.2).extractLsb' 0 2 = (s.dec.get p.1).st.code ∧
    (s.readRegister p.2).extractLsb' 2 2 = 0 ∧
    ((s.readRegister p.2).extractLsb' 4 28).toNat = (s.dec.get p.1).pend.length

/-- R32: the fields `Finish` writes, read through the window; every command that completes has performed
one `Finish`, with ERRKIND, ERR_POS and ERR_AUX 0 unless RESULT is ERROR, and with COUNT the number of bytes
it appended to OUT, or for DCHUNK to the pending buffer. -/
def Obligations.EveryCommandEndsWithOneFinish : Prop :=
  (∀ (s : State) (c : CmdId) (r : Result) (kind : BitVec 4) (pos aux : Word) (n : Nat),
    Reports (s.finish c r kind pos aux n) c r kind pos aux n) ∧
  (∀ s : State, s.readRegister 0x04 = s.status ∧ s.readRegister 0x08 = s.count ∧
    s.readRegister 0x0C = s.errPos ∧ s.readRegister 0x10 = s.errAux) ∧
  ∀ (i : Instr) (s t : State), exec i s = .next t →
    ∃ r kind pos aux n, Reports t (cmdIdOf i) r kind pos aux n ∧
      (kind ≠ 0 ↔ r = .error) ∧ (r ≠ .error → pos = 0 ∧ aux = 0) ∧
      if i.op = .dchunk then
        t.out = s.out ∧ ∃ o, (t.dec.get i.engine).pend = (s.dec.get i.engine).pend ++ o ∧ n = o.length
      else ∃ o, t.out = s.out ++ o ∧ n = o.length

/-! Reset and invariants. -/

/-- R270: right after reset, at the start and whenever the reset input is asserted, every channel is IDLE
and empty without an error, every register reads 0, and OUT is empty. -/
def Obligations.ResetStateOfTheBlock : Prop :=
  ∀ (s t : State) (rest : List HostAction),
    t = State.reset ∨ (s.hostQueue = .reset :: rest ∧ step s = .next t) →
    (∀ e, t.enc.get e = { st := .idle, res := [], acc := 0, nbits := 0 } ∧
      t.dec.get e = { st := .idle, pend := [] } ∧ (t.enc.get e).st.err = none ∧
      (t.dec.get e).st.err = none) ∧
    t.status = 0 ∧ t.count = 0 ∧ t.errPos = 0 ∧ t.errAux = 0 ∧ t.out = [] ∧
    ∀ o, t.readRegister o = 0

/-- The reset state meets the invariant of the block. -/
def Obligations.ResetMeetsTheInvariant : Prop :=
  Inv State.reset

/-- R25: the residual limits hold after reset and are kept by every step. The spec marks its parts (c) and
(d) as derived. -/
def Obligations.EncoderResidualInvariant : Prop :=
  (∀ e, ResidualInv e (State.reset.enc.get e)) ∧
  ∀ s t : State, (∀ e, ResidualInv e (s.enc.get e)) → step s = .next t →
    ∀ e, ResidualInv e (t.enc.get e)

/-- Every step keeps the invariant of the block: the residual limits, what a latched error can be, the
pending buffers' emptiness and bounds, and the legal codes of the result registers. -/
def Obligations.EveryStepKeepsTheInvariant : Prop :=
  ∀ s t : State, Inv s → step s = .next t → Inv t

/-! The channel checks and the commands shared by all engines. -/

/-- R101: EFEED, ECLOSE and EFAIL on a FAILED encoder channel return its latched error, and on an IDLE or
CLOSED one give STATE; nothing else changes. -/
def Obligations.EncoderChannelCheck : Prop :=
  ∀ (i : Instr) (s : State), i.op ∈ [.efeed, .eclose, .efail] → s.dataIn.length = i.payloadBytes →
    EncoderErrors i s

/-- R102: DCHUNK, DREAD, DEOF and DFAIL on a FAILED decoder channel return its latched error, and give
STATE on an IDLE one and, for DCHUNK and DEOF, on one at EOF; nothing else changes. -/
def Obligations.DecoderChannelCheck : Prop :=
  ∀ (i : Instr) (s : State), i.op ∈ [.dchunk, .dread, .deof, .dfail] →
    s.dataIn.length = i.payloadBytes →
    DecoderErrors (decide (i.op ∈ [Op.dread, .dfail])) i s

/-- R104: EOPEN completes in every channel state with a fresh OPEN record, emits nothing and reports OK. -/
def Obligations.EopenMakesAFreshInstance : Prop :=
  (∀ i ∈ [Instr.b45Eopen, .b85Eopen, .b91Eopen], (encode i).toNat / 16 % 16 = 0x3 ∧
    ∀ s : State, s.dataIn = [] →
      ∃ t, exec i s = .next t ∧ Reports t (cmdIdOf i) .ok 0 0 0 0 ∧
        EncChanged s t i.engine { st := .opened, res := [], acc := 0, nbits := 0 } []) ∧
  encode .b45Eopen = 0x00000030 ∧
  ∀ s t : State, exec .b45Eopen s = .next t → t.readRegister 0x20 = 0x00000001

/-- R106: EFAIL on an OPEN channel latches UPSTREAM with its code, discards the residual, and leaves OUT;
on any other channel it is answered as R101 says. -/
def Obligations.EfailLatchesTheSinkFailure : Prop :=
  (∀ f : Len, ∀ i ∈ [Instr.b45Efail f, .b85Efail f, .b91Efail f],
    (encode i).toNat / 16 % 16 = 0x6 ∧ ∀ s : State, s.dataIn = [] →
    ((s.enc.get i.engine).st = .opened →
      ∃ t, exec i s = .next t ∧ Reports t (cmdIdOf i) .error 4 0 (BitVec.ofNat 32 f.toNat) 0 ∧
        EncChanged s t i.engine
          { st := .failed { kind := .upstream, pos := 0, aux := BitVec.ofNat 32 f.toNat }
            res := [], acc := 0, nbits := 0 } []) ∧
    EncoderErrors i s) ∧
  encode (.b85Efail 5) = 0x00000561 ∧
  ∀ s t : State, s.enc.b85.st = .opened → exec (.b85Efail 5) s = .next t →
    t.status = 0x00006143 ∧ t.errAux = 5 ∧ t.readRegister 0x24 = 0x00000003

/-- R107: DOPEN completes in every channel state with a fresh OPEN record, delivers nothing and reports
OK. -/
def Obligations.DopenMakesAFreshInstance : Prop :=
  (∀ i ∈ [Instr.b45Dopen, .b85Dopen, .b91Dopen], (encode i).toNat / 16 % 16 = 0x7 ∧
    ∀ s : State, s.dataIn = [] →
      ∃ t, exec i s = .next t ∧ Reports t (cmdIdOf i) .ok 0 0 0 0 ∧
        DecChanged s t i.engine { st := .opened, pend := [] } []) ∧
  encode .b91Dopen = 0x00000072 ∧
  ∀ s t : State, exec .b91Dopen s = .next t → t.readRegister 0x38 = 0x00000001

/-- R109: DREAD delivers the front of the pending buffer, at most its count; with nothing pending it gives
END at the end of the source and NEED_CHUNK before it; on any other channel it is answered as R102 says. -/
def Obligations.DreadDeliversFromTheFront : Prop :=
  (∀ n : Len, ∀ i ∈ [Instr.b45Dread n, .b85Dread n, .b91Dread n],
    (encode i).toNat / 16 % 16 = 0x9 ∧ ∀ s : State, s.dataIn = [] →
    ((s.dec.get i.engine).st = .opened ∨ (s.dec.get i.engine).st = .eof →
      (s.dec.get i.engine).pend ≠ [] →
      ∃ t, exec i s = .next t ∧
        Reports t (cmdIdOf i) .ok 0 0 0 (min n.toNat (s.dec.get i.engine).pend.length) ∧
        DecChanged s t i.engine
          { st := (s.dec.get i.engine).st, pend := (s.dec.get i.engine).pend.drop n.toNat }
          ((s.dec.get i.engine).pend.take n.toNat)) ∧
    ((s.dec.get i.engine).st = .eof → (s.dec.get i.engine).pend = [] →
      AnsweredBare i s .endOfInput) ∧
    ((s.dec.get i.engine).st = .opened → (s.dec.get i.engine).pend = [] →
      AnsweredBare i s .needChunk) ∧
    DecoderErrors true i s) ∧
  encode (.b45Dread 1) = 0x00000190 ∧
  ∀ s t : State, s.dec.b45.st = .opened → s.dec.b45.pend = [0x41, 0x42] →
    exec (.b45Dread 1) s = .next t → t.out = s.out ++ [0x41] ∧ t.readRegister 0x30 = 0x00000011

/-- R110: DEOF on an OPEN channel moves it to EOF and keeps its pending bytes; on any other channel it is
answered as R102 says; and an empty source reaches its end without a byte. -/
def Obligations.DeofEndsTheSource : Prop :=
  (∀ i ∈ [Instr.b45Deof, .b85Deof, .b91Deof], (encode i).toNat / 16 % 16 = 0xA ∧
    ∀ s : State, s.dataIn = [] →
    ((s.dec.get i.engine).st = .opened →
      ∃ t, exec i s = .next t ∧ Reports t (cmdIdOf i) .ok 0 0 0 0 ∧
        DecChanged s t i.engine { st := .eof, pend := (s.dec.get i.engine).pend } []) ∧
    DecoderErrors false i s) ∧
  ∀ (e : Engine) (s : State), ∃ t,
    issueAll [bareTransaction .dopen e 0, bareTransaction .deof e 0, bareTransaction .dread e 16] s =
      .next t ∧
    statusResult t.status = Result.endOfInput.code ∧ t.out = s.out

/-- R111: DFAIL on a channel that is OPEN or at EOF latches UPSTREAM with its code, discards the pending
bytes, and leaves OUT; on any other channel it is answered as R102 says. -/
def Obligations.DfailLatchesTheSourceFailure : Prop :=
  (∀ f : Len, ∀ i ∈ [Instr.b45Dfail f, .b85Dfail f, .b91Dfail f],
    (encode i).toNat / 16 % 16 = 0xB ∧ ∀ s : State, s.dataIn = [] →
    ((s.dec.get i.engine).st = .opened ∨ (s.dec.get i.engine).st = .eof →
      ∃ t, exec i s = .next t ∧ Reports t (cmdIdOf i) .error 4 0 (BitVec.ofNat 32 f.toNat) 0 ∧
        DecChanged s t i.engine
          { st := .failed { kind := .upstream, pos := 0, aux := BitVec.ofNat 32 f.toNat }
            pend := [] } []) ∧
    DecoderErrors true i s) ∧
  encode (.b91Dfail 0x10) = 0x000010B2 ∧
  ∀ s t : State, s.dec.b91.st = .opened → exec (.b91Dfail 0x10) s = .next t →
    t.status = 0x0000B243 ∧ t.errAux = 0x10

/-! The commands of the base-45 engine. -/

/-- R151: B45.ENC emits the encoding of its payload and touches no channel. -/
def Obligations.B45EncEmitsTheEncoding : Prop :=
  (∀ (len : Len) (s : State), encode (.b45Enc len) = len.setWidth 32 <<< 8 ||| 0x10 ∧
    (s.dataIn.length = len.toNat →
      ∃ t, exec (.b45Enc len) s = .next t ∧
        Reports t (cmdIdOf (.b45Enc len)) .ok 0 0 0 (enc45 s.dataIn).length ∧
        OnlyEmitted s t (enc45 s.dataIn))) ∧
  enc45 [] = [] ∧
  (∀ (front : List Byte) (b : Byte), front.length % 2 = 0 →
    enc45 (front ++ [b]) = enc45 front ++ enc45Single b ∧ (enc45Single b).length = 2) ∧
  encode (.b45Enc 2) = 0x00000210 ∧ enc45 [0x41, 0x42] = [0x42, 0x42, 0x38]

/-- R152: B45.DEC emits the decoded bytes, or reports the error and emits nothing; which errors there are
and when. -/
def Obligations.B45DecEmitsTheDecoding : Prop :=
  (∀ (len : Len) (s : State), encode (.b45Dec len) = len.setWidth 32 <<< 8 ||| 0x20 ∧
    (s.dataIn.length = len.toNat →
      (∀ bytes, dec45 s.dataIn = .ok bytes →
        ∃ t, exec (.b45Dec len) s = .next t ∧
          Reports t (cmdIdOf (.b45Dec len)) .ok 0 0 0 bytes.length ∧ OnlyEmitted s t bytes) ∧
      (∀ err, dec45 s.dataIn = .error err → AnsweredLatched (.b45Dec len) s err))) ∧
  dec45 [] = .ok [] ∧
  (∀ text err, dec45 text = .error err →
    (err.kind = .invalidLength ∧ text.length % 3 = 1) ∨
    (err.kind = .illegalChar ∧ ∃ c ∈ text, c ∉ alph45) ∨
    (err.kind = .corrupt ∧ ∃ g, overflows45 text g)) ∧
  encode (.b45Dec 3) = 0x00000320 ∧ dec45 [0x42, 0x42, 0x38] = .ok [0x41, 0x42] ∧
  encode (.b45Dec 4) = 0x00000420 ∧
  ∀ s t : State, s.dataIn = [0x41, 0x42, 0x43, 0x44] → exec (.b45Dec 4) s = .next t →
    t.status = 0x00002013 ∧ t.errPos = 4 ∧ t.errAux = 1

/-- R153: B45.EFEED on an OPEN channel emits the whole groups of the residual and its payload and keeps the
rest; on any other channel it is answered as R101 says. -/
def Obligations.B45EfeedEmitsWholeGroups : Prop :=
  (∀ (len : Len) (s : State), encode (.b45Efeed len) = len.setWidth 32 <<< 8 ||| 0x40 ∧
    (s.dataIn.length = len.toNat →
      (s.enc.b45.st = .opened →
        ∃ t, exec (.b45Efeed len) s = .next t ∧
          Reports t (cmdIdOf (.b45Efeed len)) .ok 0 0 0 (feed45 s.enc.b45.res s.dataIn).2.length ∧
          EncChanged s t .b45
            { st := .opened, res := (feed45 s.enc.b45.res s.dataIn).1
              acc := s.enc.b45.acc, nbits := s.enc.b45.nbits }
            (feed45 s.enc.b45.res s.dataIn).2) ∧
      EncoderErrors (.b45Efeed len) s)) ∧
  (∀ res : List Byte, res.length ≤ 1 → feed45 res [] = (res, [])) ∧
  (∀ b : Byte, feed45 [] [b] = ([b], [])) ∧
  (∀ b0 b1 : Byte, feed45 [b0] [b1] = ([], enc45Pair b0 b1) ∧ (enc45Pair b0 b1).length = 3) ∧
  encode (.b45Efeed 1) = 0x00000140 ∧
  viewE45 { st := .opened, res := [0x41], acc := 0, nbits := 0 } = 0x00004111 ∧
  feed45 [0x41] [0x42] = ([], [0x42, 0x42, 0x38]) ∧
  viewE45 { st := .opened, res := [], acc := 0, nbits := 0 } = 0x00000001

/-- R154 with R105: B45.ECLOSE on an OPEN channel flushes the residual byte and closes the channel; on any
other channel it is answered as R101 says. -/
def Obligations.B45EcloseFlushesAndCloses : Prop :=
  encode .b45Eclose = 0x00000050 ∧
  (∀ s : State, s.dataIn = [] →
    (s.enc.b45.st = .opened →
      ∃ t, exec .b45Eclose s = .next t ∧
        Reports t (cmdIdOf .b45Eclose) .ok 0 0 0 (close45 s.enc.b45.res).length ∧
        EncChanged s t .b45 { st := .closed, res := [], acc := 0, nbits := 0 }
          (close45 s.enc.b45.res)) ∧
    EncoderErrors .b45Eclose s) ∧
  close45 [] = [] ∧ (∀ b, close45 [b] = enc45Single b ∧ (close45 [b]).length = 2) ∧
  close45 [0x41] = [0x4B, 0x31] ∧
  viewE45 { st := .closed, res := [], acc := 0, nbits := 0 } = 0x00000002

/-- R155 with R108: B45.DCHUNK on an OPEN channel with nothing pending puts the decoded bytes into the
pending buffer or latches the error; STATE while bytes are pending; on any other channel as R102 says. -/
def Obligations.B45DchunkFillsThePendingBuffer : Prop :=
  (∀ (len : Len) (s : State), encode (.b45Dchunk len) = len.setWidth 32 <<< 8 ||| 0x80 ∧
    (s.dataIn.length = len.toNat →
      (s.dec.b45.st = .opened → s.dec.b45.pend = [] →
        (∀ bytes, dec45 s.dataIn = .ok bytes →
          ∃ t, exec (.b45Dchunk len) s = .next t ∧
            Reports t (cmdIdOf (.b45Dchunk len)) .ok 0 0 0 bytes.length ∧
            DecChanged s t .b45 { st := .opened, pend := bytes } []) ∧
        (∀ err, dec45 s.dataIn = .error err →
          ∃ t, exec (.b45Dchunk len) s = .next t ∧
            Reports t (cmdIdOf (.b45Dchunk len)) .error err.kind.code err.pos err.aux 0 ∧
            DecChanged s t .b45 { st := .failed err, pend := [] } [])) ∧
      (s.dec.b45.st = .opened → s.dec.b45.pend ≠ [] → AnsweredBare (.b45Dchunk len) s .state) ∧
      DecoderErrors false (.b45Dchunk len) s)) ∧
  (∀ text : List Byte, text.length % 3 = 1 →
    dec45 text = .error (.of .invalidLength text.length 1)) ∧
  encode (.b45Dchunk 5) = 0x00000580 ∧
  dec45 [0x42, 0x42, 0x38, 0x4B, 0x31] = .ok [0x41, 0x42, 0x41] ∧
  viewDec { st := .opened, pend := [0x41, 0x42, 0x41] } = 0x00000031

/-! The commands of the base-85 engine. -/

/-- R181: B85.ENC emits the encoding of its payload: of each full group of four bytes its characters, which
are `z` for an all-zero group, then those of the partial group at the end, never `z`. What the characters of
a group are is Base85DigitsOfFullAndPartialGroups. -/
def Obligations.B85EncEmitsTheEncoding : Prop :=
  (∀ (len : Len) (s : State), encode (.b85Enc len) = len.setWidth 32 <<< 8 ||| 0x11 ∧
    (s.dataIn.length = len.toNat →
      ∃ t, exec (.b85Enc len) s = .next t ∧
        Reports t (cmdIdOf (.b85Enc len)) .ok 0 0 0 (enc85 s.dataIn).length ∧
        OnlyEmitted s t (enc85 s.dataIn))) ∧
  enc85 [] = [] ∧
  (∀ front : List Byte, front.length % 4 = 0 →
    (∀ b0 b1 b2 b3 : Byte,
      enc85 (front ++ [b0, b1, b2, b3]) = enc85 front ++ enc85Group b0 b1 b2 b3) ∧
    ∀ g : List Byte, 1 ≤ g.length → g.length ≤ 3 →
      enc85 (front ++ g) = enc85 front ++ enc85Partial g) ∧
  (∀ front : List Byte, front.length % 4 = 0 →
    enc85 (front ++ [0, 0, 0, 0]) = enc85 front ++ [0x7A] ∧
    ∀ k, 1 ≤ k → k ≤ 3 →
      enc85 (front ++ List.replicate k 0) = enc85 front ++ List.replicate (k + 1) 0x21) ∧
  encode (.b85Enc 5) = 0x00000511 ∧
  enc85 [1, 2, 3, 4, 5] = [0x21, 0x3C, 0x4E, 0x3F, 0x2B, 0x22, 0x54]

/-- R182: B85.DEC emits the decoded bytes, or reports the error and emits nothing; the error is ILLEGAL_CHAR
for a byte that is no character or a `z` inside a group, CORRUPT for a group above 2^32 - 1, with its index,
or INVALID_LENGTH for a final group of one character; `z` and `!!!!!` both decode to four zero bytes. A
group of two to five digits, padded with `u`, gives the upper bytes of its number, one fewer than its
characters. -/
def Obligations.B85DecEmitsTheDecoding : Prop :=
  (∀ (len : Len) (s : State), encode (.b85Dec len) = len.setWidth 32 <<< 8 ||| 0x21 ∧
    (s.dataIn.length = len.toNat →
      (∀ bytes, dec85 s.dataIn = .ok bytes →
        ∃ t, exec (.b85Dec len) s = .next t ∧
          Reports t (cmdIdOf (.b85Dec len)) .ok 0 0 0 bytes.length ∧ OnlyEmitted s t bytes) ∧
      (∀ err, dec85 s.dataIn = .error err → AnsweredLatched (.b85Dec len) s err))) ∧
  dec85 [] = .ok [] ∧ dec85 [0x7A] = .ok [0, 0, 0, 0] ∧
  dec85 [0x21, 0x21, 0x21, 0x21, 0x21] = .ok [0, 0, 0, 0] ∧
  (∀ group : List Byte, 2 ≤ group.length → group.length ≤ 5 → (∀ c ∈ group, isDigit85 c) →
    groupNumber85 (group ++ List.replicate (5 - group.length) 0x75) ≤ 2 ^ 32 - 1 →
    ∃ b0 b1 b2 b3,
      bigEndianNumber [b0, b1, b2, b3] =
        groupNumber85 (group ++ List.replicate (5 - group.length) 0x75) ∧
      dec85 group = .ok ([b0, b1, b2, b3].take (group.length - 1))) ∧
  (∀ text err, dec85 text = .error err → (∃ p, scanError85 text p err) ∨ endError85 text err) ∧
  encode (.b85Dec 1) = 0x00000121 ∧ encode (.b85Dec 5) = 0x00000521 ∧
  ∀ s t : State, s.dataIn = [0x73, 0x38, 0x57, 0x2D, 0x22] → exec (.b85Dec 5) s = .next t →
    t.status = 0x00002133 ∧ t.errPos = 0

/-- R183: B85.EFEED on an OPEN channel emits the whole groups of the residual and its payload and keeps the
rest; on any other channel it is answered as R101 says. -/
def Obligations.B85EfeedEmitsWholeGroups : Prop :=
  (∀ (len : Len) (s : State), encode (.b85Efeed len) = len.setWidth 32 <<< 8 ||| 0x41 ∧
    (s.dataIn.length = len.toNat →
      (s.enc.b85.st = .opened →
        ∃ t, exec (.b85Efeed len) s = .next t ∧
          Reports t (cmdIdOf (.b85Efeed len)) .ok 0 0 0 (feed85 s.enc.b85.res s.dataIn).2.length ∧
          EncChanged s t .b85
            { st := .opened, res := (feed85 s.enc.b85.res s.dataIn).1
              acc := s.enc.b85.acc, nbits := s.enc.b85.nbits }
            (feed85 s.enc.b85.res s.dataIn).2) ∧
      EncoderErrors (.b85Efeed len) s)) ∧
  (∀ res payload : List Byte, res ++ payload = [0, 0, 0, 0] → feed85 res payload = ([], [0x7A])) ∧
  (∀ res : List Byte, res.length ≤ 3 → feed85 res [] = (res, [])) ∧
  (∀ res payload : List Byte, feed85 res payload = feed85 [] (res ++ payload)) ∧
  (∀ (b0 b1 b2 b3 : Byte) (rest : List Byte), feed85 [] (b0 :: b1 :: b2 :: b3 :: rest) =
    ((feed85 [] rest).1, enc85Group b0 b1 b2 b3 ++ (feed85 [] rest).2)) ∧
  encode (.b85Efeed 3) = 0x00000341 ∧ feed85 [] [1, 2, 3] = ([1, 2, 3], []) ∧
  viewE85 { st := .opened, res := [1, 2, 3], acc := 0, nbits := 0 } = 0x03020131 ∧
  feed85 [1, 2, 3] [4, 5] = ([5], [0x21, 0x3C, 0x4E, 0x3F, 0x2B]) ∧
  viewE85 { st := .opened, res := [5], acc := 0, nbits := 0 } = 0x00000511

/-- R184 with R105: B85.ECLOSE on an OPEN channel flushes the partial group and closes the channel; on any
other channel it is answered as R101 says. -/
def Obligations.B85EcloseFlushesAndCloses : Prop :=
  encode .b85Eclose = 0x00000051 ∧
  (∀ s : State, s.dataIn = [] →
    (s.enc.b85.st = .opened →
      ∃ t, exec .b85Eclose s = .next t ∧
        Reports t (cmdIdOf .b85Eclose) .ok 0 0 0 (close85 s.enc.b85.res).length ∧
        EncChanged s t .b85 { st := .closed, res := [], acc := 0, nbits := 0 }
          (close85 s.enc.b85.res)) ∧
    EncoderErrors .b85Eclose s) ∧
  close85 [] = [] ∧ (∀ res, res ≠ [] → close85 res = enc85Partial res) ∧
  (∀ res : List Byte, 1 ≤ res.length → res.length ≤ 3 → (close85 res).length = res.length + 1) ∧
  close85 [5] = [0x22, 0x54]

/-- B85.DCHUNK on an OPEN channel with nothing pending puts the decoded bytes into the pending buffer or
latches the error; STATE while bytes are pending; on any other channel as R102 says (42_base85.md section
4). -/
def Obligations.B85DchunkFillsThePendingBuffer : Prop :=
  (∀ (len : Len) (s : State), encode (.b85Dchunk len) = len.setWidth 32 <<< 8 ||| 0x81 ∧
    (s.dataIn.length = len.toNat →
      (s.dec.b85.st = .opened → s.dec.b85.pend = [] →
        (∀ bytes, dec85 s.dataIn = .ok bytes →
          ∃ t, exec (.b85Dchunk len) s = .next t ∧
            Reports t (cmdIdOf (.b85Dchunk len)) .ok 0 0 0 bytes.length ∧
            DecChanged s t .b85 { st := .opened, pend := bytes } []) ∧
        (∀ err, dec85 s.dataIn = .error err →
          ∃ t, exec (.b85Dchunk len) s = .next t ∧
            Reports t (cmdIdOf (.b85Dchunk len)) .error err.kind.code err.pos err.aux 0 ∧
            DecChanged s t .b85 { st := .failed err, pend := [] } [])) ∧
      (s.dec.b85.st = .opened → s.dec.b85.pend ≠ [] → AnsweredBare (.b85Dchunk len) s .state) ∧
      DecoderErrors false (.b85Dchunk len) s)) ∧
  encode (.b85Dchunk 2) = 0x00000281 ∧
  dec85 [0x7A, 0x7A] = .ok [0, 0, 0, 0, 0, 0, 0, 0] ∧
  viewDec { st := .opened, pend := [0, 0, 0, 0, 0, 0, 0, 0] } = 0x00000081

/-! The commands of the base-91 engine. -/

/-- R216: B91.ENC emits the encoding of its payload; one byte gives two characters. -/
def Obligations.B91EncEmitsTheEncoding : Prop :=
  (∀ (len : Len) (s : State), encode (.b91Enc len) = len.setWidth 32 <<< 8 ||| 0x12 ∧
    (s.dataIn.length = len.toNat →
      ∃ t, exec (.b91Enc len) s = .next t ∧
        Reports t (cmdIdOf (.b91Enc len)) .ok 0 0 0 (enc91 b91Params s.dataIn).length ∧
        OnlyEmitted s t (enc91 b91Params s.dataIn))) ∧
  (∀ bytes, enc91 b91Params bytes = (feed91 b91Params (0, 0) bytes).2 ++
    close91 b91Params (feed91 b91Params (0, 0) bytes).1.1 (feed91 b91Params (0, 0) bytes).1.2) ∧
  enc91 b91Params [] = [] ∧ (∀ b : Byte, (enc91 b91Params [b]).length = 2) ∧
  encode (.b91Enc 4) = 0x00000412 ∧
  enc91 b91Params [0, 0, 0, 0] = [0x41, 0x41, 0x41, 0x41, 0x41]

/-- R217: B91.DEC emits the decoded bytes of any payload and reports OK, whatever `B91_SENTINEL` is. Two
characters of value `d` together put `d` above the bits held and credit 13 bits where `d % 8192` is above 88
and 14 otherwise, and give every whole byte then held, the lowest first (R208); at the end a lone character,
or else a nonzero remainder, gives one byte (R210, R211). -/
def Obligations.B91DecNeverFails : Prop :=
  (∀ (len : Len) (s : State), encode (.b91Dec len) = len.setWidth 32 <<< 8 ||| 0x22 ∧
    (s.dataIn.length = len.toNat →
      ∃ t, exec (.b91Dec len) s = .next t ∧
        Reports t (cmdIdOf (.b91Dec len)) .ok 0 0 0 (dec91 b91Params s.dataIn).length ∧
        OnlyEmitted s t (dec91 b91Params s.dataIn))) ∧
  (∀ d, creditedBits91 d = if d % 8192 > 88 then 13 else 14) ∧
  (∀ acc nbits v1 v2 d m total : Nat, d = v1 + v2 * 91 → m = acc ||| d <<< nbits →
    total = nbits + (if d % 8192 > 88 then 13 else 14) →
    pair91 b91Params acc nbits v1 v2 =
      ((m / 2 ^ (8 * (total / 8)), total % 8),
        (List.range (total / 8)).map fun j => BitVec.ofNat 8 (m / 2 ^ (8 * j)))) ∧
  (∀ text, dec91 b91Params text = scan91 b91Params 0 0 none text) ∧
  (∀ (acc nbits : Nat) (c1 c2 : Byte) (rest : List Byte) (st : Nat × Nat) (o : List Byte),
    pair91 b91Params acc nbits (val91 b91Params c1) (val91 b91Params c2) = (st, o) →
    scan91 b91Params acc nbits none (c1 :: c2 :: rest) = o ++ scan91 b91Params st.1 st.2 none rest) ∧
  (∀ (acc nbits : Nat) (c : Byte), scan91 b91Params acc nbits none [c] =
    [BitVec.ofNat 8 (acc ||| val91 b91Params c <<< nbits)]) ∧
  (∀ acc nbits : Nat, scan91 b91Params acc nbits none [] = if acc = 0 then [] else [BitVec.ofNat 8 acc]) ∧
  (∀ v < 91, val91 b91Params (charOf alph91 v) = v) ∧
  (∀ c : Byte, dec91 b91Params [c] = [BitVec.ofNat 8 (val91 b91Params c)]) ∧
  (∀ c : Byte, c ∉ alph91 → val91 b91Params c = Config.b91Sentinel.toNat) ∧
  encode (.b91Dec 5) = 0x00000522 ∧
  dec91 b91Params [0x41, 0x41, 0x41, 0x41, 0x41] = [0, 0, 0, 0]

/-- R218: B91.EFEED on an OPEN channel packs its payload and keeps the bits left over exactly; on any other
channel it is answered as R101 says. -/
def Obligations.B91EfeedPacksTheBits : Prop :=
  (∀ (len : Len) (s : State), encode (.b91Efeed len) = len.setWidth 32 <<< 8 ||| 0x42 ∧
    (s.dataIn.length = len.toNat →
      (s.enc.b91.st = .opened → residualFits .b91 s.enc.b91 →
        ∃ t c, exec (.b91Efeed len) s = .next t ∧
          Reports t (cmdIdOf (.b91Efeed len)) .ok 0 0 0
            (feed91 b91Params (s.enc.b91.acc.toNat, s.enc.b91.nbits.toNat) s.dataIn).2.length ∧
          EncChanged s t .b91 c
            (feed91 b91Params (s.enc.b91.acc.toNat, s.enc.b91.nbits.toNat) s.dataIn).2 ∧
          c.st = .opened ∧ c.res = s.enc.b91.res ∧
          (c.acc.toNat, c.nbits.toNat) =
            (feed91 b91Params (s.enc.b91.acc.toNat, s.enc.b91.nbits.toNat) s.dataIn).1) ∧
      EncoderErrors (.b91Efeed len) s)) ∧
  (∀ st, feed91 b91Params st [] = (st, [])) ∧
  (∀ st b rest, feed91 b91Params st (b :: rest) =
    ((feed91 b91Params (step91 b91Params st b).1 rest).1,
      (step91 b91Params st b).2 ++ (feed91 b91Params (step91 b91Params st b).1 rest).2)) ∧
  (∀ b : Byte, (feed91 b91Params (0, 0) [b]).2 = []) ∧
  encode (.b91Efeed 4) = 0x00000442 ∧
  feed91 b91Params (0, 0) [0x74, 0x65, 0x73, 0x74] = ((29, 6), [0x66, 0x50, 0x4E, 0x4B]) ∧
  viewE91 { st := .opened, res := [], acc := 29, nbits := 6 } = 0x00001D61

/-- R219 with R105: B91.ECLOSE on an OPEN channel flushes the bits left over and closes the channel; on any
other channel it is answered as R101 says. -/
def Obligations.B91EcloseFlushesAndCloses : Prop :=
  encode .b91Eclose = 0x00000052 ∧
  (∀ s : State, s.dataIn = [] →
    (s.enc.b91.st = .opened →
      ∃ t, exec .b91Eclose s = .next t ∧
        Reports t (cmdIdOf .b91Eclose) .ok 0 0 0
          (close91 b91Params s.enc.b91.acc.toNat s.enc.b91.nbits.toNat).length ∧
        EncChanged s t .b91 { st := .closed, res := [], acc := 0, nbits := 0 }
          (close91 b91Params s.enc.b91.acc.toNat s.enc.b91.nbits.toNat)) ∧
    EncoderErrors .b91Eclose s) ∧
  (∀ acc, close91 b91Params acc 0 = []) ∧
  (∀ acc nbits, 0 < nbits → (close91 b91Params acc nbits).length = if nbits > 7 ∨ acc > 90 then 2 else 1) ∧
  (∀ acc nbits, 0 < nbits → close91 b91Params acc nbits =
    if nbits > 7 ∨ acc > 90 then [charOf alph91 (acc % 91), charOf alph91 (acc / 91)]
    else [charOf alph91 (acc % 91)]) ∧
  close91 b91Params 29 6 = [0x64]

/-- R220 with R108: B91.DCHUNK on an OPEN channel with nothing pending puts the decoded bytes of any chunk
into the pending buffer; STATE while bytes are pending; on any other channel as R102 says. -/
def Obligations.B91DchunkFillsThePendingBuffer : Prop :=
  (∀ (len : Len) (s : State), encode (.b91Dchunk len) = len.setWidth 32 <<< 8 ||| 0x82 ∧
    (s.dataIn.length = len.toNat →
      (s.dec.b91.st = .opened → s.dec.b91.pend = [] →
        ∃ t, exec (.b91Dchunk len) s = .next t ∧
          Reports t (cmdIdOf (.b91Dchunk len)) .ok 0 0 0 (dec91 b91Params s.dataIn).length ∧
          DecChanged s t .b91 { st := .opened, pend := dec91 b91Params s.dataIn } []) ∧
      (s.dec.b91.st = .opened → s.dec.b91.pend ≠ [] → AnsweredBare (.b91Dchunk len) s .state) ∧
      DecoderErrors false (.b91Dchunk len) s)) ∧
  dec91 b91Params [0x41] ++ dec91 b91Params [0x41, 0x41, 0x41, 0x41] = [0, 0, 0, 0] ∧
  dec91 b91Params [0x66] = [0x1F] ∧
  dec91 b91Params [0x50, 0x4E, 0x4B, 0x64] = [0xAE, 0x24, 0x4B, 0x01] ∧
  encode (.b91Dchunk 5) = 0x00000582 ∧
  dec91 b91Params [0x66, 0x50, 0x4E, 0x4B, 0x64] = [0x74, 0x65, 0x73, 0x74] ∧
  viewDec { st := .opened, pend := [0x74, 0x65, 0x73, 0x74] } = 0x00000041

/-! Laws of the whole block. -/

/-- R112: a FAILED channel keeps its record in every step except a reset or its own EOPEN or DOPEN, and
every other command on it returns its error and changes nothing. The spec marks this rule as derived from
others. -/
def Obligations.FailedChannelsStayFailed : Prop :=
  (∀ (s t : State) (e : Engine) (err : ErrorValue), step s = .next t →
    (s.enc.get e).st = .failed err →
    t.enc.get e = s.enc.get e ∨
    ∃ a rest, s.hostQueue = a :: rest ∧ (a = .reset ∨ ∃ i, a.spells i ∧ i.op = .eopen ∧ i.engine = e)) ∧
  (∀ (s t : State) (e : Engine) (err : ErrorValue), step s = .next t →
    (s.dec.get e).st = .failed err →
    t.dec.get e = s.dec.get e ∨
    ∃ a rest, s.hostQueue = a :: rest ∧ (a = .reset ∨ ∃ i, a.spells i ∧ i.op = .dopen ∧ i.engine = e)) ∧
  (∀ (i : Instr) (s : State) (err : ErrorValue), s.dataIn.length = i.payloadBytes →
    (i.op ∈ [.efeed, .eclose, .efail] ∧ (s.enc.get i.engine).st = .failed err) ∨
      (i.op ∈ [.dchunk, .dread, .deof, .dfail] ∧ (s.dec.get i.engine).st = .failed err) →
    AnsweredLatched i s err)

/-- R114: ENC and DEC write no channel record and read none; a channel command touches only the channel of
its own engine and direction. The spec marks this rule as derived from others. -/
def Obligations.CommandsTouchOnlyTheirOwnChannel : Prop :=
  (∀ (i : Instr) (s t : State), exec i s = .next t →
    (i.op ∈ [.enc, .dec] → t.enc = s.enc ∧ t.dec = s.dec) ∧
    (i.op ∈ [.eopen, .efeed, .eclose, .efail] →
      t.dec = s.dec ∧ ∀ e, e ≠ i.engine → t.enc.get e = s.enc.get e) ∧
    (i.op ∈ [.dopen, .dchunk, .dread, .deof, .dfail] →
      t.enc = s.enc ∧ ∀ e, e ≠ i.engine → t.dec.get e = s.dec.get e)) ∧
  (∀ (i : Instr) (s t : State) (enc : PerEngine EncChannel) (dec : PerEngine DecChannel),
    i.op ∈ [.enc, .dec] → exec i s = .next t →
    exec i { s with enc := enc, dec := dec } = .next { t with enc := enc, dec := dec })

/-- R115: an encoder channel is FAILED after a command only if it was before, with the same error, or if
the command is EFAIL on it, with UPSTREAM; ENC, and EFEED and ECLOSE on an OPEN channel, report OK. The
spec marks this rule as derived from others. -/
def Obligations.EncodersFailOnlyUpstream : Prop :=
  (∀ (i : Instr) (s t : State) (e : Engine) (err : ErrorValue), exec i s = .next t →
    (t.enc.get e).st = .failed err →
    (s.enc.get e).st = .failed err ∨
      (i.op = .efail ∧ i.engine = e ∧ err = { kind := .upstream, pos := 0, aux := i.len.setWidth 32 })) ∧
  (∀ (i : Instr) (s t : State), exec i s = .next t →
    i.op = .enc ∨ (i.op ∈ [.efeed, .eclose] ∧ (s.enc.get i.engine).st = .opened) →
    statusResult t.status = 0)

/-- R52: a command only appends to OUT and does not depend on what is already there; the host takes bytes
from the front, in order. That it may take any number of them in one action, and that a count above the
length takes all, is the model's reading (log entry 11). -/
def Obligations.OutIsAppendedAndDrainedInOrder : Prop :=
  (∀ (i : Instr) (s t : State), exec i s = .next t → ∃ o, t.out = s.out ++ o) ∧
  (∀ (i : Instr) (s t : State) (earlier : List Byte), exec i s = .next t →
    exec i { s with out := earlier ++ s.out } = .next { t with out := earlier ++ t.out }) ∧
  (∀ (s : State) (n : Nat) (rest : List HostAction), s.hostQueue = .drain (some n) :: rest →
    ∃ t, step s = .next t ∧ t.reply = .bytes (s.out.take n) ∧ s.out.take n ++ t.out = s.out ∧
      t.enc = s.enc ∧ t.dec = s.dec ∧ t.status = s.status ∧ t.count = s.count) ∧
  (∀ (s : State) (rest : List HostAction), s.hostQueue = .drain none :: rest →
    ∃ t, step s = .next t ∧ t.reply = .bytes s.out ∧ t.out = [])

/-- R245: a command that ends in ERROR, STATE or ILLEGAL appends nothing to OUT and changes no channel, but
for the error that EFAIL, DFAIL or DCHUNK reports on a channel that admits it: that error is latched there,
UPSTREAM with the command's code, or the error of the chunk's decoding. ENC never ends so. -/
def Obligations.ErrorsArePrecise : Prop :=
  (∀ (i : Instr) (s t : State), exec i s = .next t →
    statusResult t.status = 3 ∨ statusResult t.status = 5 →
    i.op ≠ .enc ∧ t.out = s.out ∧ t.count = 0 ∧
    (i.op = .efail ∧ (s.enc.get i.engine).st = .opened →
      ∃ err, err = { kind := .upstream, pos := 0, aux := i.len.setWidth 32 } ∧
        Reports t (cmdIdOf i) .error err.kind.code err.pos err.aux 0 ∧
        EncChanged s t i.engine { st := .failed err, res := [], acc := 0, nbits := 0 } []) ∧
    (i.op = .dfail ∧ ((s.dec.get i.engine).st = .opened ∨ (s.dec.get i.engine).st = .eof) →
      ∃ err, err = { kind := .upstream, pos := 0, aux := i.len.setWidth 32 } ∧
        Reports t (cmdIdOf i) .error err.kind.code err.pos err.aux 0 ∧
        DecChanged s t i.engine { st := .failed err, pend := [] } []) ∧
    (i.op = .dchunk ∧ (s.dec.get i.engine).st = .opened ∧ (s.dec.get i.engine).pend = [] →
      ∃ err, decodeBy i.engine s.dataIn = .error err ∧
        Reports t (cmdIdOf i) .error err.kind.code err.pos err.aux 0 ∧
        DecChanged s t i.engine { st := .failed err, pend := [] } []) ∧
    (¬ (i.op = .efail ∧ (s.enc.get i.engine).st = .opened) →
      ¬ (i.op = .dfail ∧ ((s.dec.get i.engine).st = .opened ∨ (s.dec.get i.engine).st = .eof)) →
      ¬ (i.op = .dchunk ∧ (s.dec.get i.engine).st = .opened ∧ (s.dec.get i.engine).pend = []) →
      OnlyReported s t)) ∧
  (∀ (s t : State) (w : Word) (payload : List Byte) (rest : List HostAction) (e : DecodeError),
    s.hostQueue = .command w payload :: rest → decodeWord w = .error e → step s = .next t →
    OnlyReported s t ∧ t.count = 0)

/-- R103: on any channel, EOPEN, one EFEED for each part and ECLOSE append to OUT exactly what ENC of the
concatenated parts appends. The spec marks this rule as derived from others. -/
def Obligations.EncodingIsChunkIndependent : Prop :=
  ∀ (e : Engine) (parts : List (List Byte)) (s : State), (∀ p ∈ parts, p.length < 2 ^ 24) →
    ∃ t, issueAll (streamEncode e parts) s = .next t ∧
      t.out = s.out ++ encodeBy e parts.flatten ∧
      (parts.flatten.length < 2 ^ 24 →
        ∃ u, performNow (hostAction (payloadTransaction .enc e parts.flatten)) s = .next u ∧
          u.out = t.out)

/-! Laws of the conversions. -/

/-- R140 to R143: the byte of each base-45 value, and that a byte outside the alphabet has none; the characters
of a pair and of a single byte are the base-45 digits of its number, the least significant first, with their
bounds. The spec marks the bound 32 as derived. -/
def Obligations.Base45DigitsOfPairAndSingle : Prop :=
  (∀ v < 10, charOf alph45 v = BitVec.ofNat 8 (0x30 + v)) ∧
  (∀ v < 26, charOf alph45 (10 + v) = BitVec.ofNat 8 (0x41 + v)) ∧
  (∀ v < 9, charOf alph45 (36 + v) =
    [0x20, 0x24, 0x25, 0x2A, 0x2B, 0x2D, 0x2E, 0x2F, 0x3A].getD v 0) ∧
  (∀ v < 45, val45 (charOf alph45 v) = some v) ∧
  (∀ c : Byte, (∀ v < 45, charOf alph45 v ≠ c) → val45 c = none) ∧
  (∀ b0 b1 : Byte, ∃ c d v, c < 45 ∧ d < 45 ∧ v ≤ 32 ∧
    b0.toNat * 256 + b1.toNat = c + d * 45 + v * 2025 ∧
    enc45Pair b0 b1 = [charOf alph45 c, charOf alph45 d, charOf alph45 v]) ∧
  enc45Pair 0x41 0x42 = [0x42, 0x42, 0x38] ∧
  (∀ b0 : Byte, ∃ c d, c < 45 ∧ d ≤ 5 ∧ b0.toNat = c + d * 45 ∧
    enc45Single b0 = [charOf alph45 c, charOf alph45 d]) ∧
  enc45Single 0x41 = [0x4B, 0x31]

/-- R146: the length of a base-45 encoding, the empty input, and feeding in two parts. The spec marks the
feeding law as derived. -/
def Obligations.Base45EncodingLengthAndFeeds : Prop :=
  (∀ s : List Byte, enc45 s = (feed45 [] s).2 ++ close45 (feed45 [] s).1 ∧
    (enc45 s).length = 3 * (s.length / 2) + 2 * (s.length % 2)) ∧
  enc45 [] = [] ∧
  ∀ res p1 p2 : List Byte, res.length ≤ 1 →
    feed45 res (p1 ++ p2) =
      ((feed45 (feed45 res p1).1 p2).1, (feed45 res p1).2 ++ (feed45 (feed45 res p1).1 p2).2)

/-- R148: which error a base-45 decode reports: the length, then the illegal character of lowest position,
then the overflowing group of lowest index; with none of them it succeeds. -/
def Obligations.Base45DecodeErrorPrecedence : Prop :=
  (∀ t : List Byte, t.length % 3 = 1 → dec45 t = .error (.of .invalidLength t.length 1)) ∧
  (∀ (t : List Byte) (p : Nat) (c : Byte), t.length % 3 ≠ 1 → t[p]? = some c → c ∉ alph45 →
    (∀ q d, q < p → t[q]? = some d → d ∈ alph45) →
    dec45 t = .error (.of .illegalChar p c.toNat)) ∧
  (∀ (t : List Byte) (g : Nat), t.length % 3 ≠ 1 → (∀ c ∈ t, c ∈ alph45) → overflows45 t g →
    (∀ h, h < g → ¬ overflows45 t h) → dec45 t = .error (.of .corrupt g 0)) ∧
  (∀ t : List Byte, t.length % 3 ≠ 1 → (∀ c ∈ t, c ∈ alph45) → (∀ g, ¬ overflows45 t g) →
    ∃ bytes, dec45 t = .ok bytes) ∧
  dec45 [0x61, 0x62, 0x38, 0x3A, 0x3A, 0x3A] = .error (.of .illegalChar 0 0x61)

/-- R150: the length of a base-45 decoding, and the bound of the pending buffer it fills. The spec marks
this rule as derived from others. -/
def Obligations.Base45DecodingLength : Prop :=
  (∀ t bytes : List Byte, dec45 t = .ok bytes →
    bytes.length = 2 * (t.length / 3) + (if t.length % 3 = 2 then 1 else 0) ∧
    bytes.length ≤ t.length) ∧
  ∀ (len : Len) (s t : State), exec (.b45Dchunk len) s = .next t → statusResult t.status = 0 →
    t.dec.b45.pend.length ≤ len.toNat

/-- R156: base-45 decoding inverts encoding, encodings are in the alphabet and have no length 1 mod 3, and
INVALID_LENGTH is raised exactly for lengths 1 mod 3. The spec marks this rule as derived from others. -/
def Obligations.Base45RoundTrip : Prop :=
  (∀ b : List Byte, dec45 (enc45 b) = .ok b ∧ (∀ c ∈ enc45 b, c ∈ alph45) ∧
    ((enc45 b).length % 3 = 0 ∨ (enc45 b).length % 3 = 2)) ∧
  ∀ t : List Byte, (∃ err, dec45 t = .error err ∧ err.kind = .invalidLength) ↔ t.length % 3 = 1

/-- R180: the length of a base-85 decoding, and the bound of the pending buffer it fills. The spec marks
this rule as derived from others. -/
def Obligations.Base85DecodingLength : Prop :=
  (∀ t bytes : List Byte, dec85 t = .ok bytes →
    bytes.length = 4 * t.count 0x7A + 4 * ((t.length - t.count 0x7A) / 5) +
      ((t.length - t.count 0x7A) % 5 - 1) ∧
    bytes.length ≤ 4 * t.length) ∧
  (∀ k : Nat, dec85 (List.replicate k 0x7A) = .ok (List.replicate (4 * k) 0)) ∧
  ∀ (len : Len) (s t : State), exec (.b85Dchunk len) s = .next t → statusResult t.status = 0 →
    t.dec.b85.pend.length ≤ 4 * len.toNat

/-- R186: base-85 decoding inverts encoding, encodings are in the alphabet with `z`, and `z` stands for
four zero bytes and for nothing shorter. The spec marks this rule as derived from others. -/
def Obligations.Base85RoundTrip : Prop :=
  (∀ b : List Byte, dec85 (enc85 b) = .ok b ∧
    ∀ c ∈ enc85 b, (0x21 ≤ c.toNat ∧ c.toNat ≤ 0x75) ∨ c = 0x7A) ∧
  enc85 [0, 0, 0, 0] = [0x7A] ∧ dec85 [0x7A] = .ok [0, 0, 0, 0] ∧
  ∀ k, 1 ≤ k → k ≤ 3 → 0x7A ∉ enc85 (List.replicate k 0)

/-- R200, R202 and R205: the byte of each base-91 value; and one step of the base-91 encoder on the number
`n` of the bits held with the next byte above them: with at most 13 bits nothing is emitted; otherwise the
characters of `n % 2^13` where it is above 88, consuming 13 bits, and else of `n % 2^14`, consuming 14. The
residual stays within 13 bits, and an emitted value is 89 to 8191, or 0 to 88 with 0 or 8192 added. The spec
marks the latter as derived from others. -/
def Obligations.Base91EncoderInvariant : Prop :=
  (∀ v < 26, charOf alph91 v = BitVec.ofNat 8 (0x41 + v)) ∧
  (∀ v < 26, charOf alph91 (26 + v) = BitVec.ofNat 8 (0x61 + v)) ∧
  (∀ v < 10, charOf alph91 (52 + v) = BitVec.ofNat 8 (0x30 + v)) ∧
  (∀ v < 29, charOf alph91 (62 + v) =
    [0x21, 0x23, 0x24, 0x25, 0x26, 0x28, 0x29, 0x2A, 0x2B, 0x2C, 0x2E, 0x2F, 0x3A, 0x3B, 0x3C, 0x3D, 0x3E,
      0x3F, 0x40, 0x5B, 0x5D, 0x5E, 0x5F, 0x60, 0x7B, 0x7C, 0x7D, 0x7E, 0x22].getD v 0) ∧
  ∀ (acc nbits : Nat) (b : Byte) (n : Nat), nbits ≤ 13 → acc < 2 ^ nbits → n = acc + b.toNat * 2 ^ nbits →
    (nbits + 8 ≤ 13 → step91 b91Params (acc, nbits) b = ((n, nbits + 8), [])) ∧
    (nbits + 8 > 13 → n % 2 ^ 13 > 88 →
      step91 b91Params (acc, nbits) b =
        ((n / 2 ^ 13, nbits + 8 - 13),
          [charOf alph91 (n % 2 ^ 13 % 91), charOf alph91 (n % 2 ^ 13 / 91)])) ∧
    (nbits + 8 > 13 → n % 2 ^ 13 ≤ 88 →
      step91 b91Params (acc, nbits) b =
        ((n / 2 ^ 14, nbits + 8 - 14),
          [charOf alph91 (n % 2 ^ 14 % 91), charOf alph91 (n % 2 ^ 14 / 91)]) ∧
      (n % 2 ^ 14 = n % 2 ^ 13 ∨ n % 2 ^ 14 = n % 2 ^ 13 + 8192) ∧ n % 2 ^ 14 ≤ 8280) ∧
    (step91 b91Params (acc, nbits) b).1.2 ≤ 13 ∧
    (step91 b91Params (acc, nbits) b).1.1 < 2 ^ (step91 b91Params (acc, nbits) b).1.2

/-- R214: base-91 decoding inverts encoding, and encodings are in the alphabet, whatever `B91_SENTINEL` is.
The spec marks this rule as derived from others. -/
def Obligations.Base91RoundTrip : Prop :=
  ∀ b : List Byte, dec91 b91Params (enc91 b91Params b) = b ∧ ∀ c ∈ enc91 b91Params b, c ∈ alph91

/-- R215: a base-91 decoding is no longer than its text, for every value of the parameters, and the bound
of the pending buffer it fills. The spec marks this rule as derived from others. -/
def Obligations.Base91DecodingLength : Prop :=
  (∀ (p : Config.B91Params) (t : List Byte), (dec91 p t).length ≤ t.length) ∧
  ∀ (len : Len) (s t : State), exec (.b91Dchunk len) s = .next t → statusResult t.status = 0 →
    t.dec.b91.pend.length ≤ len.toNat

/-- The decode-chunk alignment of 70_reset_and_hazards.md section 3: a text split at a group boundary decodes
to the concatenation of its parts' decodings. For base-91 the part before the split has only alphabet
characters (log entry 9). -/
def Obligations.AlignedSplitsDecodePiecewise : Prop :=
  (∀ t1 t2 b1 b2 : List Byte, t1.length % 3 = 0 → dec45 t1 = .ok b1 → dec45 t2 = .ok b2 →
    dec45 (t1 ++ t2) = .ok (b1 ++ b2)) ∧
  (∀ t1 t2 b1 b2 : List Byte, openChars85 0 t1 = 0 → dec85 t1 = .ok b1 → dec85 t2 = .ok b2 →
    dec85 (t1 ++ t2) = .ok (b1 ++ b2)) ∧
  (∀ t1 t2 : List Byte, t1.length % 2 = 0 → creditedBits91Of b91Params t1 % 8 = 0 →
    (∀ c ∈ t1, c ∈ alph91) → dec91 b91Params (t1 ++ t2) = dec91 b91Params t1 ++ dec91 b91Params t2)

/-- R172 and R173: the characters of a base-85 group are the five base-85 digits of its big-endian number, the
most significant first and never `t` or `u`, or `z` where the number is 0; those of a partial group of k bytes
are the first k + 1 digits of the group padded with zero bytes, never `z`. The spec marks the bound of the
first character as derived. -/
def Obligations.Base85DigitsOfFullAndPartialGroups : Prop :=
  (∀ d, d < 85 → (char85 d).toNat = 0x21 + d) ∧
  (∀ b0 b1 b2 b3 : Byte,
    (bigEndianNumber [b0, b1, b2, b3] = 0 → enc85Group b0 b1 b2 b3 = [0x7A]) ∧
    (bigEndianNumber [b0, b1, b2, b3] ≠ 0 →
      AreDigits85 (bigEndianNumber [b0, b1, b2, b3]) (enc85Group b0 b1 b2 b3) ∧
      (enc85Group b0 b1 b2 b3).head? ≠ some 0x74 ∧ (enc85Group b0 b1 b2 b3).head? ≠ some 0x75)) ∧
  enc85Group 0xFF 0xFF 0xFF 0xFF = [0x73, 0x38, 0x57, 0x2D, 0x21] ∧
  (∀ g : List Byte, 1 ≤ g.length → g.length ≤ 3 →
    ∃ five, AreDigits85 (bigEndianNumber (g ++ List.replicate (4 - g.length) 0)) five ∧
      enc85Partial g = five.take (g.length + 1) ∧ 0x7A ∉ enc85Partial g) ∧
  enc85Partial [0] = [0x21, 0x21] ∧ enc85Partial [0, 0, 0] = [0x21, 0x21, 0x21, 0x21] ∧
  enc85Partial [5] = [0x22, 0x54]

/-- R179 with R177 and R178: which error a base-85 decode reports: the first one met from left to right; with
none in the scan, the one at the end of the text; with neither it succeeds. -/
def Obligations.Base85DecodeErrorPrecedence : Prop :=
  (∀ (text : List Byte) (p : Nat) (err : ErrorValue), scanError85 text p err →
    (∀ q < p, ∀ e, ¬ scanError85 text q e) → dec85 text = .error err) ∧
  (∀ (text : List Byte) (err : ErrorValue), (∀ p e, ¬ scanError85 text p e) → endError85 text err →
    dec85 text = .error err) ∧
  (∀ text : List Byte, (∀ p e, ¬ scanError85 text p e) → (∀ e, ¬ endError85 text e) →
    ∃ bytes, dec85 text = .ok bytes) ∧
  dec85 [0x73, 0x38, 0x57, 0x2D, 0x22, 0x21, 0x21, 0x21, 0x21, 0x76] = .error (.of .corrupt 0 0)
end

