-- ==== Sys2Proof/Laws/Conversions.lean ====
section
/-! SUPPORT. What the loops of the base-91 conversions (43_base91.md R202, R208) can do, and their bit operations
as arithmetic. -/

namespace Sys2Proof.Machine

/-- Bits put above the `k` bits held are added to the number held. -/
theorem or_shiftLeft_eq_add {acc k : Nat} (x : Nat) (h : acc < 2 ^ k) :
    acc ||| x <<< k = acc + x * 2 ^ k := by
  rw [Nat.shiftLeft_eq, Nat.mul_comm, Nat.or_comm, ← Nat.two_pow_add_eq_or_of_lt h, Nat.add_comm]

/-- The low 13 bits of a number. -/
theorem and_8191_eq_mod (x : Nat) : x &&& 8191 = x % 2 ^ 13 :=
  Nat.and_two_pow_sub_one_eq_mod x 13

/-- The low 14 bits of a number. -/
theorem and_16383_eq_mod (x : Nat) : x &&& 16383 = x % 2 ^ 14 :=
  Nat.and_two_pow_sub_one_eq_mod x 14

/-- The byte of a number is that of its low eight bits. -/
theorem byte_of_and_255 (x : Nat) : BitVec.ofNat 8 (x &&& 255) = BitVec.ofNat 8 x := by
  apply BitVec.eq_of_toNat_eq
  simp [Nat.and_two_pow_sub_one_eq_mod x 8]

/-- The encoder's loop emits nothing more once at most 13 bits are held. -/
theorem drainPairs91_of_le (p : Config.B91Params) (fuel acc nbits : Nat) (h : nbits ≤ 13) :
    drainPairs91 p fuel acc nbits = ((acc, nbits), []) := by
  cases fuel with
  | zero => rfl
  | succ fuel => rw [drainPairs91, if_neg (by omega)]

/-- The decoder's loop takes every whole byte held, the lowest first, and keeps the rest. -/
theorem drainBytes91_eq (total : Nat) : ∀ fuel acc, total ≤ fuel →
    drainBytes91 fuel acc total =
      ((acc / 2 ^ (8 * (total / 8)), total % 8),
        (List.range (total / 8)).map fun j => BitVec.ofNat 8 (acc / 2 ^ (8 * j))) := by
  induction total using Nat.strong_induction_on with
  | _ total ih =>
    intro fuel acc h
    cases fuel with
    | zero => obtain rfl : total = 0 := by omega
              simp [drainBytes91]
    | succ fuel =>
      simp only [drainBytes91]
      split
      · rw [ih (total - 8) (by omega) fuel _ (by omega), show total / 8 = (total - 8) / 8 + 1 by omega,
          List.range_succ_eq_map]
        simp only [List.map_cons, List.map_map, Prod.mk.injEq, Nat.shiftRight_eq_div_pow,
          Nat.div_div_eq_div_mul, ← Nat.pow_add, Function.comp_def, byte_of_and_255]
        refine ⟨⟨by rw [Nat.mul_add, Nat.add_comm], by omega⟩, ?_⟩
        simp [Nat.mul_add, Nat.add_comm]
      · simp [show total / 8 = 0 by omega]
        omega

end Sys2Proof.Machine
end

