-- ==== Sys2Proof/Laws/State.lean ====
section
/-! SUPPORT. One lemma per field per update of the state, and the lemmas of `PerEngine`. -/

namespace Sys2Proof.Machine

@[simp] theorem PerEngine.get_set_same {α : Type} (p : PerEngine α) (e : Engine) (a : α) :
    (p.set e a).get e = a := by cases e <;> rfl

theorem PerEngine.get_set_of_ne {α : Type} (p : PerEngine α) {e e' : Engine} (a : α) (h : e' ≠ e) :
    (p.set e a).get e' = p.get e' := by cases e <;> cases e' <;> first | rfl | exact absurd rfl h

theorem PerEngine.get_set {α : Type} (p : PerEngine α) (e e' : Engine) (a : α) :
    (p.set e a).get e' = if e' = e then a else p.get e' := by cases e <;> cases e' <;> rfl

@[simp] theorem PerEngine.get_mk {α : Type} (a : α) (e : Engine) : (PerEngine.mk a a a).get e = a := by
  cases e <;> rfl

@[simp] theorem State.setEnc_enc (s : State) (e : Engine) (c : EncChannel) :
    (s.setEnc e c).enc = s.enc.set e c := rfl
@[simp] theorem State.setEnc_dec (s : State) (e : Engine) (c : EncChannel) :
    (s.setEnc e c).dec = s.dec := rfl
@[simp] theorem State.setEnc_status (s : State) (e : Engine) (c : EncChannel) :
    (s.setEnc e c).status = s.status := rfl
@[simp] theorem State.setEnc_count (s : State) (e : Engine) (c : EncChannel) :
    (s.setEnc e c).count = s.count := rfl
@[simp] theorem State.setEnc_errPos (s : State) (e : Engine) (c : EncChannel) :
    (s.setEnc e c).errPos = s.errPos := rfl
@[simp] theorem State.setEnc_errAux (s : State) (e : Engine) (c : EncChannel) :
    (s.setEnc e c).errAux = s.errAux := rfl
@[simp] theorem State.setEnc_out (s : State) (e : Engine) (c : EncChannel) :
    (s.setEnc e c).out = s.out := rfl
@[simp] theorem State.setEnc_hostQueue (s : State) (e : Engine) (c : EncChannel) :
    (s.setEnc e c).hostQueue = s.hostQueue := rfl
@[simp] theorem State.setEnc_reply (s : State) (e : Engine) (c : EncChannel) :
    (s.setEnc e c).reply = s.reply := rfl

@[simp] theorem State.setDec_enc (s : State) (e : Engine) (c : DecChannel) :
    (s.setDec e c).enc = s.enc := rfl
@[simp] theorem State.setDec_dec (s : State) (e : Engine) (c : DecChannel) :
    (s.setDec e c).dec = s.dec.set e c := rfl
@[simp] theorem State.setDec_status (s : State) (e : Engine) (c : DecChannel) :
    (s.setDec e c).status = s.status := rfl
@[simp] theorem State.setDec_count (s : State) (e : Engine) (c : DecChannel) :
    (s.setDec e c).count = s.count := rfl
@[simp] theorem State.setDec_errPos (s : State) (e : Engine) (c : DecChannel) :
    (s.setDec e c).errPos = s.errPos := rfl
@[simp] theorem State.setDec_errAux (s : State) (e : Engine) (c : DecChannel) :
    (s.setDec e c).errAux = s.errAux := rfl
@[simp] theorem State.setDec_out (s : State) (e : Engine) (c : DecChannel) :
    (s.setDec e c).out = s.out := rfl
@[simp] theorem State.setDec_hostQueue (s : State) (e : Engine) (c : DecChannel) :
    (s.setDec e c).hostQueue = s.hostQueue := rfl
@[simp] theorem State.setDec_reply (s : State) (e : Engine) (c : DecChannel) :
    (s.setDec e c).reply = s.reply := rfl

@[simp] theorem State.emit_enc (s : State) (bytes : List Byte) :
    (s.emit bytes).enc = s.enc := rfl
@[simp] theorem State.emit_dec (s : State) (bytes : List Byte) :
    (s.emit bytes).dec = s.dec := rfl
@[simp] theorem State.emit_status (s : State) (bytes : List Byte) :
    (s.emit bytes).status = s.status := rfl
@[simp] theorem State.emit_count (s : State) (bytes : List Byte) :
    (s.emit bytes).count = s.count := rfl
@[simp] theorem State.emit_errPos (s : State) (bytes : List Byte) :
    (s.emit bytes).errPos = s.errPos := rfl
@[simp] theorem State.emit_errAux (s : State) (bytes : List Byte) :
    (s.emit bytes).errAux = s.errAux := rfl
@[simp] theorem State.emit_out (s : State) (bytes : List Byte) :
    (s.emit bytes).out = s.out ++ bytes := rfl
@[simp] theorem State.emit_hostQueue (s : State) (bytes : List Byte) :
    (s.emit bytes).hostQueue = s.hostQueue := rfl
@[simp] theorem State.emit_reply (s : State) (bytes : List Byte) :
    (s.emit bytes).reply = s.reply := rfl

@[simp] theorem State.finish_enc (s : State) (c : CmdId) (r : Result) (kind : BitVec 4) (pos aux : Word) (count : Nat) :
    (s.finish c r kind pos aux count).enc = s.enc := rfl
@[simp] theorem State.finish_dec (s : State) (c : CmdId) (r : Result) (kind : BitVec 4) (pos aux : Word) (count : Nat) :
    (s.finish c r kind pos aux count).dec = s.dec := rfl
@[simp] theorem State.finish_status (s : State) (c : CmdId) (r : Result) (kind : BitVec 4) (pos aux : Word) (count : Nat) :
    (s.finish c r kind pos aux count).status = statusWord c r kind := rfl
@[simp] theorem State.finish_count (s : State) (c : CmdId) (r : Result) (kind : BitVec 4) (pos aux : Word) (count : Nat) :
    (s.finish c r kind pos aux count).count = BitVec.ofNat 32 count := rfl
@[simp] theorem State.finish_errPos (s : State) (c : CmdId) (r : Result) (kind : BitVec 4) (pos aux : Word) (count : Nat) :
    (s.finish c r kind pos aux count).errPos = pos := rfl
@[simp] theorem State.finish_errAux (s : State) (c : CmdId) (r : Result) (kind : BitVec 4) (pos aux : Word) (count : Nat) :
    (s.finish c r kind pos aux count).errAux = aux := rfl
@[simp] theorem State.finish_out (s : State) (c : CmdId) (r : Result) (kind : BitVec 4) (pos aux : Word) (count : Nat) :
    (s.finish c r kind pos aux count).out = s.out := rfl
@[simp] theorem State.finish_hostQueue (s : State) (c : CmdId) (r : Result) (kind : BitVec 4) (pos aux : Word) (count : Nat) :
    (s.finish c r kind pos aux count).hostQueue = s.hostQueue.tail := rfl
@[simp] theorem State.finish_reply (s : State) (c : CmdId) (r : Result) (kind : BitVec 4) (pos aux : Word) (count : Nat) :
    (s.finish c r kind pos aux count).reply = s.reply := rfl

@[simp] theorem State.complete_enc (s : State) (r : Reply) :
    (s.complete r).enc = s.enc := rfl
@[simp] theorem State.complete_dec (s : State) (r : Reply) :
    (s.complete r).dec = s.dec := rfl
@[simp] theorem State.complete_status (s : State) (r : Reply) :
    (s.complete r).status = s.status := rfl
@[simp] theorem State.complete_count (s : State) (r : Reply) :
    (s.complete r).count = s.count := rfl
@[simp] theorem State.complete_errPos (s : State) (r : Reply) :
    (s.complete r).errPos = s.errPos := rfl
@[simp] theorem State.complete_errAux (s : State) (r : Reply) :
    (s.complete r).errAux = s.errAux := rfl
@[simp] theorem State.complete_out (s : State) (r : Reply) :
    (s.complete r).out = s.out := rfl
@[simp] theorem State.complete_hostQueue (s : State) (r : Reply) :
    (s.complete r).hostQueue = s.hostQueue.tail := rfl
@[simp] theorem State.complete_reply (s : State) (r : Reply) :
    (s.complete r).reply = r := rfl

end Sys2Proof.Machine
end

