-- ==== Sys2Proof/Laws/Ops.lean ====
section
/-! SUPPORT. For each shared operation, one lemma that says once everything it can do. -/

namespace Sys2Proof.Machine

/-- `onTransaction` answers a next state exactly when the payload has the required length. -/
theorem onTransaction_eq_next {n : Nat} {s t : State} {k : List Byte → State} :
    onTransaction n s k = .next t ↔ s.dataIn.length = n ∧ k s.dataIn = t := by
  unfold onTransaction
  split <;> simp_all

/-- `onTransaction` never faults. -/
theorem onTransaction_ne_fault {n : Nat} {s : State} {k : List Byte → State} {f : Fault} :
    onTransaction n s k ≠ .fault f := by
  unfold onTransaction
  split <;> simp

/-- With the required payload length, `onTransaction` is the work on the payload. -/
theorem onTransaction_of_length {n : Nat} {s : State} {k : List Byte → State}
    (h : s.dataIn.length = n) : onTransaction n s k = .next (k s.dataIn) :=
  onTransaction_eq_next.2 ⟨h, rfl⟩

/-- With another payload length it is the refusal. -/
theorem onTransaction_of_length_ne {n : Nat} {s : State} {k : List Byte → State}
    (h : s.dataIn.length ≠ n) : onTransaction n s k = .refused .payloadLength := by
  simp [onTransaction, h]

/-- Bit `i` of a placed field. -/
theorem getLsbD_place {n : Nat} (v : BitVec n) (lo i : Nat) :
    (place v lo).getLsbD i = (decide (i < 32) && decide (lo ≤ i) && v.getLsbD (i - lo)) := by
  simp only [place, BitVec.getLsbD_shiftLeft, BitVec.getLsbD_setWidth]
  have hs : i < 32 → i - lo < 32 := fun h => by omega
  by_cases h : i < 32 <;> by_cases h' : lo ≤ i <;> simp [h, h', hs, Nat.not_lt.2, Nat.lt_of_not_le]

@[simp] theorem statusResult_statusWord (c : CmdId) (r : Result) (k : BitVec 4) :
    statusResult (statusWord c r k) = r.code := by
  refine BitVec.eq_of_getLsbD_eq fun i hi => ?_
  simp only [statusResult, statusWord, BitVec.getLsbD_extractLsb', BitVec.getLsbD_or, getLsbD_place]
  interval_cases i <;> simp

@[simp] theorem statusErrKind_statusWord (c : CmdId) (r : Result) (k : BitVec 4) :
    statusErrKind (statusWord c r k) = k := by
  refine BitVec.eq_of_getLsbD_eq fun i hi => ?_
  simp only [statusErrKind, statusWord, BitVec.getLsbD_extractLsb', BitVec.getLsbD_or, getLsbD_place]
  interval_cases i <;> simp

@[simp] theorem statusEng_statusWord (c : CmdId) (r : Result) (k : BitVec 4) :
    statusEng (statusWord c r k) = c.eng := by
  refine BitVec.eq_of_getLsbD_eq fun i hi => ?_
  simp only [statusEng, statusWord, BitVec.getLsbD_extractLsb', BitVec.getLsbD_or, getLsbD_place]
  interval_cases i <;> simp

@[simp] theorem statusGap_statusWord (c : CmdId) (r : Result) (k : BitVec 4) :
    statusGap (statusWord c r k) = 0 := by
  refine BitVec.eq_of_getLsbD_eq fun i hi => ?_
  simp only [statusGap, statusWord, BitVec.getLsbD_extractLsb', BitVec.getLsbD_or, getLsbD_place]
  interval_cases i <;> simp

@[simp] theorem statusOp_statusWord (c : CmdId) (r : Result) (k : BitVec 4) :
    statusOp (statusWord c r k) = c.op := by
  refine BitVec.eq_of_getLsbD_eq fun i hi => ?_
  simp only [statusOp, statusWord, BitVec.getLsbD_extractLsb', BitVec.getLsbD_or, getLsbD_place]
  interval_cases i <;> simp

@[simp] theorem statusHigh_statusWord (c : CmdId) (r : Result) (k : BitVec 4) :
    statusHigh (statusWord c r k) = 0 := by
  refine BitVec.eq_of_getLsbD_eq fun i hi => ?_
  simp only [statusHigh, statusWord, BitVec.getLsbD_extractLsb', BitVec.getLsbD_or, getLsbD_place]
  interval_cases i <;> simp

/-- `Finish` writes the result registers as R32 lays them out. -/
theorem State.finish_reports (s : State) (c : CmdId) (r : Result) (kind : BitVec 4) (pos aux : Word)
    (count : Nat) : Reports (s.finish c r kind pos aux count) c r kind pos aux count := by
  constructor <;> simp

/-- `CheckEnc` (R101) on a FAILED channel. -/
theorem checkEnc_failed {c : CmdId} {e : Engine} {s : State} {work : EncChannel → State}
    {err : ErrorValue} (h : (s.enc.get e).st = .failed err) :
    checkEnc c e s work = s.finishError c err := by simp [checkEnc, h]

/-- `CheckEnc` (R101) on an IDLE or CLOSED channel. -/
theorem checkEnc_notOpen {c : CmdId} {e : Engine} {s : State} {work : EncChannel → State}
    (h : (s.enc.get e).st = .idle ∨ (s.enc.get e).st = .closed) :
    checkEnc c e s work = s.finishBare c .state := by
  rcases h with h | h <;> simp [checkEnc, h]

/-- `CheckEnc` (R101) on an OPEN channel. -/
theorem checkEnc_opened {c : CmdId} {e : Engine} {s : State} {work : EncChannel → State}
    (h : (s.enc.get e).st = .opened) : checkEnc c e s work = work (s.enc.get e) := by
  simp [checkEnc, h]

/-- Everything `CheckEnc` can do. -/
theorem checkEnc_cases (c : CmdId) (e : Engine) (s : State) (work : EncChannel → State) :
    (∃ err, (s.enc.get e).st = .failed err ∧ checkEnc c e s work = s.finishError c err) ∨
    (((s.enc.get e).st = .idle ∨ (s.enc.get e).st = .closed) ∧
      checkEnc c e s work = s.finishBare c .state) ∨
    ((s.enc.get e).st = .opened ∧ checkEnc c e s work = work (s.enc.get e)) := by
  cases h : (s.enc.get e).st with
  | idle => exact .inr (.inl ⟨.inl rfl, checkEnc_notOpen (.inl h)⟩)
  | closed => exact .inr (.inl ⟨.inr rfl, checkEnc_notOpen (.inr h)⟩)
  | opened => exact .inr (.inr ⟨rfl, checkEnc_opened h⟩)
  | failed err => exact .inl ⟨err, rfl, checkEnc_failed h⟩

/-- Everything `CheckDec` can do (R102). -/
theorem checkDec_cases (c : CmdId) (e : Engine) (eofOk : Bool) (s : State) (work : DecChannel → State) :
    (∃ err, (s.dec.get e).st = .failed err ∧ checkDec c e eofOk s work = s.finishError c err) ∨
    (((s.dec.get e).st = .idle ∨ ((s.dec.get e).st = .eof ∧ eofOk = false)) ∧
      checkDec c e eofOk s work = s.finishBare c .state) ∨
    (((s.dec.get e).st = .opened ∨ ((s.dec.get e).st = .eof ∧ eofOk = true)) ∧
      checkDec c e eofOk s work = work (s.dec.get e)) := by
  cases h : (s.dec.get e).st <;> cases eofOk <;> simp [checkDec, h]

/-- Everything DEC can do: the bytes are emitted, or an error is reported and nothing is. -/
theorem decodeWhole_cases (e : Engine) (r : Except ErrorValue (List Byte)) (s : State) :
    (∃ err, r = .error err ∧ decodeWhole e r s = s.finishError (cmdId e .dec) err) ∨
    (∃ bytes, r = .ok bytes ∧ decodeWhole e r s = s.deliver (cmdId e .dec) bytes) := by
  cases r with
  | error err => exact .inl ⟨err, rfl, rfl⟩
  | ok bytes => exact .inr ⟨bytes, rfl, rfl⟩

/-- Everything EFEED can do. -/
theorem feedChannel_cases (e : Engine) (feed : EncChannel → EncChannel × List Byte) (s : State) :
    (∃ err, (s.enc.get e).st = .failed err ∧ feedChannel e feed s = s.finishError (cmdId e .efeed) err) ∨
    (((s.enc.get e).st = .idle ∨ (s.enc.get e).st = .closed) ∧
      feedChannel e feed s = s.finishBare (cmdId e .efeed) .state) ∨
    ((s.enc.get e).st = .opened ∧
      feedChannel e feed s =
        (s.setEnc e (feed (s.enc.get e)).1).deliver (cmdId e .efeed) (feed (s.enc.get e)).2) :=
  checkEnc_cases _ e s _

/-- Everything ECLOSE can do. -/
theorem closeChannel_cases (e : Engine) (flush : EncChannel → List Byte) (s : State) :
    (∃ err, (s.enc.get e).st = .failed err ∧
      closeChannel e flush s = s.finishError (cmdId e .eclose) err) ∨
    (((s.enc.get e).st = .idle ∨ (s.enc.get e).st = .closed) ∧
      closeChannel e flush s = s.finishBare (cmdId e .eclose) .state) ∨
    ((s.enc.get e).st = .opened ∧
      closeChannel e flush s =
        (s.setEnc e .closedRecord).deliver (cmdId e .eclose) (flush (s.enc.get e))) :=
  checkEnc_cases _ e s _

/-- Everything EFAIL can do. -/
theorem reportSinkFailure_cases (e : Engine) (code : Len) (s : State) :
    (∃ err, (s.enc.get e).st = .failed err ∧
      reportSinkFailure e code s = s.finishError (cmdId e .efail) err) ∨
    (((s.enc.get e).st = .idle ∨ (s.enc.get e).st = .closed) ∧
      reportSinkFailure e code s = s.finishBare (cmdId e .efail) .state) ∨
    ((s.enc.get e).st = .opened ∧
      reportSinkFailure e code s =
        s.failEnc (cmdId e .efail) e { kind := .upstream, pos := 0, aux := code.setWidth 32 }) :=
  checkEnc_cases _ e s _

/-- Everything DCHUNK can do. -/
theorem chunkChannel_cases (e : Engine) (r : Except ErrorValue (List Byte)) (s : State) :
    (∃ err, (s.dec.get e).st = .failed err ∧
      chunkChannel e r s = s.finishError (cmdId e .dchunk) err) ∨
    (((s.dec.get e).st = .idle ∨ (s.dec.get e).st = .eof ∨
        ((s.dec.get e).st = .opened ∧ (s.dec.get e).pend ≠ [])) ∧
      chunkChannel e r s = s.finishBare (cmdId e .dchunk) .state) ∨
    ((s.dec.get e).st = .opened ∧ (s.dec.get e).pend = [] ∧
      ((∃ err, r = .error err ∧ chunkChannel e r s = s.failDec (cmdId e .dchunk) e err) ∨
        ∃ bytes, r = .ok bytes ∧
          chunkChannel e r s =
            (s.setDec e { s.dec.get e with pend := bytes }).finishOk (cmdId e .dchunk) bytes.length)) := by
  cases h : (s.dec.get e).st <;> by_cases hp : (s.dec.get e).pend = [] <;> cases r <;>
    simp [chunkChannel, checkDec, h, hp]

/-- Everything DREAD can do. -/
theorem readPending_cases (e : Engine) (n : Len) (s : State) :
    (∃ err, (s.dec.get e).st = .failed err ∧
      readPending e n s = s.finishError (cmdId e .dread) err) ∨
    ((s.dec.get e).st = .idle ∧ readPending e n s = s.finishBare (cmdId e .dread) .state) ∨
    (((s.dec.get e).st = .opened ∨ (s.dec.get e).st = .eof) ∧ (s.dec.get e).pend ≠ [] ∧
      readPending e n s =
        (s.setDec e { s.dec.get e with pend := (s.dec.get e).pend.drop n.toNat }).deliver
          (cmdId e .dread) ((s.dec.get e).pend.take n.toNat)) ∨
    ((s.dec.get e).st = .eof ∧ (s.dec.get e).pend = [] ∧
      readPending e n s = s.finishBare (cmdId e .dread) .endOfInput) ∨
    ((s.dec.get e).st = .opened ∧ (s.dec.get e).pend = [] ∧
      readPending e n s = s.finishBare (cmdId e .dread) .needChunk) := by
  cases h : (s.dec.get e).st <;> by_cases hp : (s.dec.get e).pend = [] <;>
    simp [readPending, checkDec, h, hp]

/-- Everything DEOF can do. -/
theorem endSource_cases (e : Engine) (s : State) :
    (∃ err, (s.dec.get e).st = .failed err ∧ endSource e s = s.finishError (cmdId e .deof) err) ∨
    (((s.dec.get e).st = .idle ∨ (s.dec.get e).st = .eof) ∧
      endSource e s = s.finishBare (cmdId e .deof) .state) ∨
    ((s.dec.get e).st = .opened ∧
      endSource e s = (s.setDec e { s.dec.get e with st := .eof }).finishOk (cmdId e .deof) 0) := by
  cases h : (s.dec.get e).st <;> simp [endSource, checkDec, h]

/-- Everything DFAIL can do. -/
theorem reportSourceFailure_cases (e : Engine) (code : Len) (s : State) :
    (∃ err, (s.dec.get e).st = .failed err ∧
      reportSourceFailure e code s = s.finishError (cmdId e .dfail) err) ∨
    ((s.dec.get e).st = .idle ∧ reportSourceFailure e code s = s.finishBare (cmdId e .dfail) .state) ∨
    (((s.dec.get e).st = .opened ∨ (s.dec.get e).st = .eof) ∧
      reportSourceFailure e code s =
        s.failDec (cmdId e .dfail) e { kind := .upstream, pos := 0, aux := code.setWidth 32 }) := by
  cases h : (s.dec.get e).st <;> simp [reportSourceFailure, checkDec, h]

/-- An admitted register access is at its offset. -/
theorem registerOffset?_of_offset {o : Nat} (h : o < 64) (h4 : o % 4 = 0) :
    registerOffset? (Config.rcbBase + o) 4 = some o := by
  simp [registerOffset?, Config.windowBytes, h, h4]

/-- When a register access is admitted (R54). -/
theorem registerOffset?_eq_some {addr width o : Nat} :
    registerOffset? addr width = some o ↔
      width = 4 ∧ addr = Config.rcbBase + o ∧ o < 64 ∧ o % 4 = 0 := by
  unfold registerOffset? Config.windowBytes
  split
  · rename_i h
    simp only [Option.some.injEq]
    omega
  · simp only [reduceCtorEq, false_iff]
    omega

end Sys2Proof.Machine
end

