-- ==== Sys2Proof/Laws/Exec.lean ====
section
/-! SUPPORT. What `exec` does, said once: each command is the payload check over one effect, and the effect
depends on the engine only through its conversions. So a fact about all commands needs eleven cases, one for
each operation, and not one for each command. -/

namespace Sys2Proof.Machine

/-- The EFEED of an engine on its channel record (R153, R183, R218). -/
def feedBy : Engine → List Byte → EncChannel → EncChannel × List Byte
  | .b45 => feedRecord45
  | .b85 => feedRecord85
  | .b91 => feedRecord91

/-- The characters an engine's ECLOSE flushes (R145, R175, R206). -/
def flushBy : Engine → EncChannel → List Byte
  | .b45, ch => close45 ch.res
  | .b85, ch => close85 ch.res
  | .b91, ch => close91 b91Params ch.acc.toNat ch.nbits.toNat

/-- The effect of a command's transaction with the payload `p`. -/
def effect (i : Instr) (s : State) (p : List Byte) : State :=
  match i.op with
  | .enc => encodeWhole i.engine (encodeBy i.engine p) s
  | .dec => decodeWhole i.engine (decodeBy i.engine p) s
  | .eopen => openEnc i.engine s
  | .efeed => feedChannel i.engine (feedBy i.engine p) s
  | .eclose => closeChannel i.engine (flushBy i.engine) s
  | .efail => reportSinkFailure i.engine i.len s
  | .dopen => openDec i.engine s
  | .dchunk => chunkChannel i.engine (decodeBy i.engine p) s
  | .dread => readPending i.engine i.len s
  | .deof => endSource i.engine s
  | .dfail => reportSourceFailure i.engine i.len s

/-- Every command is its effect behind the payload check. -/
theorem exec_eq_onTransaction (i : Instr) (s : State) :
    exec i s = onTransaction i.payloadBytes s (effect i s) := by
  cases i <;> rfl

/-- When a command completes, and with what. -/
theorem exec_eq_next {i : Instr} {s t : State} :
    exec i s = .next t ↔ s.dataIn.length = i.payloadBytes ∧ effect i s s.dataIn = t := by
  rw [exec_eq_onTransaction, onTransaction_eq_next]

/-- With the payload it requires, a command completes. -/
theorem exec_of_length {i : Instr} {s : State} (h : s.dataIn.length = i.payloadBytes) :
    exec i s = .next (effect i s s.dataIn) :=
  exec_eq_next.2 ⟨h, rfl⟩

/-- With a payload of another length, a command is refused. -/
theorem exec_of_length_ne {i : Instr} {s : State} (h : s.dataIn.length ≠ i.payloadBytes) :
    exec i s = .refused .payloadLength := by
  rw [exec_eq_onTransaction, onTransaction_of_length_ne h]

end Sys2Proof.Machine
end

