-- ==== Sys2Proof/Laws/PerInstr.lean ====
section
/-! SUPPORT. The statements made of every command, one lemma per constructor. `WordMatchesRow`: the word a
command is encoded to is accepted by the row of the opcode map (30_encoding.md rule R79) that bears its
mnemonic. -/

namespace Sys2Proof.Laws

open Sys2Proof.Machine

/-- The low byte of an encoded command holds ENG and OP, whatever its LEN (R70). -/
theorem encode_and_low_byte (i : Instr) :
    encode i &&& 0x000000FF = place i.engine.code 0 ||| place i.op.code 4 := by
  refine BitVec.eq_of_getLsbD_eq fun j hj => ?_
  simp only [encode, BitVec.getLsbD_and, BitVec.getLsbD_or, getLsbD_place]
  interval_cases j <;> simp

/-- A row with the mask 0x000000FF accepts an encoded command whose ENG and OP are the row's. -/
theorem accepts_of_low_byte {i : Instr} {name : String} {m : Word} (e : Engine) (o : Op)
    (he : i.engine = e) (ho : i.op = o) (h : place e.code 0 ||| place o.code 4 = m) :
    (OpcodeRow.mk name m 0x000000FF).accepts (encode i) = true := by
  subst he ho
  exact beq_iff_eq.2 ((encode_and_low_byte i).trans h)

namespace WordMatchesRow

/-- The command's word is accepted by the row of its mnemonic. -/
def Statement (i : Instr) : Prop :=
  ∃ r ∈ opcodeMap, r.mnemonic = i.mnemonic ∧ r.accepts (encode i) = true

theorem b45Enc (len : Len) : Statement (.b45Enc len) :=
  ⟨⟨"B45.ENC", 0x00000010, 0x000000FF⟩, by decide, rfl, accepts_of_low_byte .b45 .enc rfl rfl (by decide)⟩

theorem b85Enc (len : Len) : Statement (.b85Enc len) :=
  ⟨⟨"B85.ENC", 0x00000011, 0x000000FF⟩, by decide, rfl, accepts_of_low_byte .b85 .enc rfl rfl (by decide)⟩

theorem b91Enc (len : Len) : Statement (.b91Enc len) :=
  ⟨⟨"B91.ENC", 0x00000012, 0x000000FF⟩, by decide, rfl, accepts_of_low_byte .b91 .enc rfl rfl (by decide)⟩

theorem b45Dec (len : Len) : Statement (.b45Dec len) :=
  ⟨⟨"B45.DEC", 0x00000020, 0x000000FF⟩, by decide, rfl, accepts_of_low_byte .b45 .dec rfl rfl (by decide)⟩

theorem b85Dec (len : Len) : Statement (.b85Dec len) :=
  ⟨⟨"B85.DEC", 0x00000021, 0x000000FF⟩, by decide, rfl, accepts_of_low_byte .b85 .dec rfl rfl (by decide)⟩

theorem b91Dec (len : Len) : Statement (.b91Dec len) :=
  ⟨⟨"B91.DEC", 0x00000022, 0x000000FF⟩, by decide, rfl, accepts_of_low_byte .b91 .dec rfl rfl (by decide)⟩

theorem b45Eopen : Statement .b45Eopen :=
  ⟨⟨"B45.EOPEN", 0x00000030, 0xFFFFFFFF⟩, by decide, by decide, by decide⟩

theorem b85Eopen : Statement .b85Eopen :=
  ⟨⟨"B85.EOPEN", 0x00000031, 0xFFFFFFFF⟩, by decide, by decide, by decide⟩

theorem b91Eopen : Statement .b91Eopen :=
  ⟨⟨"B91.EOPEN", 0x00000032, 0xFFFFFFFF⟩, by decide, by decide, by decide⟩

theorem b45Efeed (len : Len) : Statement (.b45Efeed len) :=
  ⟨⟨"B45.EFEED", 0x00000040, 0x000000FF⟩, by decide, rfl, accepts_of_low_byte .b45 .efeed rfl rfl (by decide)⟩

theorem b85Efeed (len : Len) : Statement (.b85Efeed len) :=
  ⟨⟨"B85.EFEED", 0x00000041, 0x000000FF⟩, by decide, rfl, accepts_of_low_byte .b85 .efeed rfl rfl (by decide)⟩

theorem b91Efeed (len : Len) : Statement (.b91Efeed len) :=
  ⟨⟨"B91.EFEED", 0x00000042, 0x000000FF⟩, by decide, rfl, accepts_of_low_byte .b91 .efeed rfl rfl (by decide)⟩

theorem b45Eclose : Statement .b45Eclose :=
  ⟨⟨"B45.ECLOSE", 0x00000050, 0xFFFFFFFF⟩, by decide, by decide, by decide⟩

theorem b85Eclose : Statement .b85Eclose :=
  ⟨⟨"B85.ECLOSE", 0x00000051, 0xFFFFFFFF⟩, by decide, by decide, by decide⟩

theorem b91Eclose : Statement .b91Eclose :=
  ⟨⟨"B91.ECLOSE", 0x00000052, 0xFFFFFFFF⟩, by decide, by decide, by decide⟩

theorem b45Efail (code : Len) : Statement (.b45Efail code) :=
  ⟨⟨"B45.EFAIL", 0x00000060, 0x000000FF⟩, by decide, rfl, accepts_of_low_byte .b45 .efail rfl rfl (by decide)⟩

theorem b85Efail (code : Len) : Statement (.b85Efail code) :=
  ⟨⟨"B85.EFAIL", 0x00000061, 0x000000FF⟩, by decide, rfl, accepts_of_low_byte .b85 .efail rfl rfl (by decide)⟩

theorem b91Efail (code : Len) : Statement (.b91Efail code) :=
  ⟨⟨"B91.EFAIL", 0x00000062, 0x000000FF⟩, by decide, rfl, accepts_of_low_byte .b91 .efail rfl rfl (by decide)⟩

theorem b45Dopen : Statement .b45Dopen :=
  ⟨⟨"B45.DOPEN", 0x00000070, 0xFFFFFFFF⟩, by decide, by decide, by decide⟩

theorem b85Dopen : Statement .b85Dopen :=
  ⟨⟨"B85.DOPEN", 0x00000071, 0xFFFFFFFF⟩, by decide, by decide, by decide⟩

theorem b91Dopen : Statement .b91Dopen :=
  ⟨⟨"B91.DOPEN", 0x00000072, 0xFFFFFFFF⟩, by decide, by decide, by decide⟩

theorem b45Dchunk (len : Len) : Statement (.b45Dchunk len) :=
  ⟨⟨"B45.DCHUNK", 0x00000080, 0x000000FF⟩, by decide, rfl, accepts_of_low_byte .b45 .dchunk rfl rfl (by decide)⟩

theorem b85Dchunk (len : Len) : Statement (.b85Dchunk len) :=
  ⟨⟨"B85.DCHUNK", 0x00000081, 0x000000FF⟩, by decide, rfl, accepts_of_low_byte .b85 .dchunk rfl rfl (by decide)⟩

theorem b91Dchunk (len : Len) : Statement (.b91Dchunk len) :=
  ⟨⟨"B91.DCHUNK", 0x00000082, 0x000000FF⟩, by decide, rfl, accepts_of_low_byte .b91 .dchunk rfl rfl (by decide)⟩

theorem b45Dread (count : Len) : Statement (.b45Dread count) :=
  ⟨⟨"B45.DREAD", 0x00000090, 0x000000FF⟩, by decide, rfl, accepts_of_low_byte .b45 .dread rfl rfl (by decide)⟩

theorem b85Dread (count : Len) : Statement (.b85Dread count) :=
  ⟨⟨"B85.DREAD", 0x00000091, 0x000000FF⟩, by decide, rfl, accepts_of_low_byte .b85 .dread rfl rfl (by decide)⟩

theorem b91Dread (count : Len) : Statement (.b91Dread count) :=
  ⟨⟨"B91.DREAD", 0x00000092, 0x000000FF⟩, by decide, rfl, accepts_of_low_byte .b91 .dread rfl rfl (by decide)⟩

theorem b45Deof : Statement .b45Deof :=
  ⟨⟨"B45.DEOF", 0x000000A0, 0xFFFFFFFF⟩, by decide, by decide, by decide⟩

theorem b85Deof : Statement .b85Deof :=
  ⟨⟨"B85.DEOF", 0x000000A1, 0xFFFFFFFF⟩, by decide, by decide, by decide⟩

theorem b91Deof : Statement .b91Deof :=
  ⟨⟨"B91.DEOF", 0x000000A2, 0xFFFFFFFF⟩, by decide, by decide, by decide⟩

theorem b45Dfail (code : Len) : Statement (.b45Dfail code) :=
  ⟨⟨"B45.DFAIL", 0x000000B0, 0x000000FF⟩, by decide, rfl, accepts_of_low_byte .b45 .dfail rfl rfl (by decide)⟩

theorem b85Dfail (code : Len) : Statement (.b85Dfail code) :=
  ⟨⟨"B85.DFAIL", 0x000000B1, 0x000000FF⟩, by decide, rfl, accepts_of_low_byte .b85 .dfail rfl rfl (by decide)⟩

theorem b91Dfail (code : Len) : Statement (.b91Dfail code) :=
  ⟨⟨"B91.DFAIL", 0x000000B2, 0x000000FF⟩, by decide, rfl, accepts_of_low_byte .b91 .dfail rfl rfl (by decide)⟩

end WordMatchesRow

end Sys2Proof.Laws
end

