-- ==== Sys2Proof/Tests/Slice0.lean ====
section
/-! SUPPORT. Tests on fixed values. The expected results are those of spec/95_test_vectors.md (the section is
named in each comment) or are written out from the rule named; and, for every statement with hypotheses, a
concrete state and operands that meet them together. -/

namespace Sys2Proof.Tests

open Sys2Proof Sys2Proof.Machine

/-! Builders and projections. -/

/-- The reset block with the transaction of the word `w` and its payload as the host's next action. -/
def issue (w : Word) (payload : List Byte) (s : State) : State :=
  { s with hostQueue := [.command w payload] }

/-- The next state of an outcome, if it is one. -/
def nextOf (o : Host.Outcome State Fault Refusal) : Option State :=
  match o with
  | .next s => some s
  | .fault _ => none
  | .refused _ => none

/-- What the host sees of a step: the four result registers, OUT, and one more register. -/
structure Seen where
  status : Word
  count  : Word
  errPos : Word
  errAux : Word
  out    : List Byte
  reg    : Word
  deriving DecidableEq, Repr

/-- One step of a transaction, and what is then seen with the register at a window offset. -/
def stepResult (w : Word) (payload : List Byte) (s : State) (offset : Nat) : Option Seen :=
  (nextOf (step (issue w payload s))).map fun t =>
    { status := t.status, count := t.count, errPos := t.errPos, errAux := t.errAux, out := t.out
      reg := t.readRegister offset }

/-- A decoding's outcome as a sum, which can be compared. -/
def outcomeOf (r : Except ErrorValue (List Byte)) : ErrorValue ⊕ List Byte :=
  match r with
  | .error e => .inl e
  | .ok bytes => .inr bytes

/-- A word from its four fields, most significant first (30_encoding.md R70). -/
def wordOf (len : BitVec 24) (op : BitVec 4) (rsv eng : BitVec 2) : Word :=
  len ++ op ++ rsv ++ eng

/-- The text of an ASCII string as bytes. -/
def txt (s : String) : List Byte := ascii s

/-- An OPEN encoder record with this residual. -/
def openRes (res : List Byte) : EncChannel :=
  { st := .opened, res := res, acc := 0, nbits := 0 }

/-- The error (UPSTREAM, 0, 5). -/
def upstream5 : ErrorValue := { kind := .upstream, pos := 0, aux := 5 }

/-- A FAILED encoder record with that error. -/
def failedEnc : EncChannel := { st := .failed upstream5, res := [], acc := 0, nbits := 0 }

/-- A CLOSED encoder record. -/
def closedEnc : EncChannel := { st := .closed, res := [], acc := 0, nbits := 0 }

/-- A decoder record. -/
def decRec (st : DecSt) (pend : List Byte) : DecChannel := { st := st, pend := pend }

/-- The reset block with one record in all encoder channels. -/
def withEnc (c : EncChannel) : State := { State.reset with enc := ⟨c, c, c⟩ }

/-- The reset block with one record in all decoder channels. -/
def withDec (c : DecChannel) : State := { State.reset with dec := ⟨c, c, c⟩ }

/-- The base-91 channel of 95_test_vectors.md P4 step 10: 29 held in 6 bits. -/
def enc91Held : EncChannel := { st := .opened, res := [], acc := 29, nbits := 6 }

/-! Well-formed transactions (30_encoding.md R73): the ill-formed ones are refused. -/

theorem test_wellFormed_accepts :
    Transaction.wellFormed ⟨.b45Enc 2, [0x41, 0x42]⟩ = true ∧
    Transaction.wellFormed ⟨.b91Dread 4, []⟩ = true := by decide

theorem test_wellFormed_refuses_short_payload :
    Transaction.wellFormed ⟨.b45Enc 2, [0x41]⟩ = false := by decide

theorem test_wellFormed_refuses_long_payload :
    Transaction.wellFormed ⟨.b85Dchunk 1, [0x7A, 0x7A]⟩ = false := by decide

theorem test_wellFormed_refuses_payload_of_bare_command :
    Transaction.wellFormed ⟨.b91Dread 1, [0x41]⟩ = false ∧
    Transaction.wellFormed ⟨.b45Eopen, [0x41]⟩ = false := by decide

/-! Decoding. Each word is written from its fields, LEN ++ OP ++ RSV ++ ENG (30_encoding.md R70 to R72, R79). -/

theorem test_decode_enc :
    decodeWord (wordOf 0x000002 0b0001 0b00 0b00) = .ok (.b45Enc 2) ∧
    decodeWord (wordOf 0xFFFFFF 0b0001 0b00 0b01) = .ok (.b85Enc 0xFFFFFF) ∧
    decodeWord (wordOf 0x800001 0b0001 0b00 0b10) = .ok (.b91Enc 0x800001) := by decide

theorem test_decode_dec :
    decodeWord (wordOf 0x000003 0b0010 0b00 0b00) = .ok (.b45Dec 3) ∧
    decodeWord (wordOf 0xFFFFFF 0b0010 0b00 0b01) = .ok (.b85Dec 0xFFFFFF) ∧
    decodeWord (wordOf 0x000000 0b0010 0b00 0b10) = .ok (.b91Dec 0) := by decide

theorem test_decode_eopen :
    decodeWord (wordOf 0 0b0011 0b00 0b00) = .ok .b45Eopen ∧
    decodeWord (wordOf 0 0b0011 0b00 0b01) = .ok .b85Eopen ∧
    decodeWord (wordOf 0 0b0011 0b00 0b10) = .ok .b91Eopen := by decide

theorem test_decode_efeed :
    decodeWord (wordOf 0x000001 0b0100 0b00 0b00) = .ok (.b45Efeed 1) ∧
    decodeWord (wordOf 0x000100 0b0100 0b00 0b01) = .ok (.b85Efeed 0x100) ∧
    decodeWord (wordOf 0x010000 0b0100 0b00 0b10) = .ok (.b91Efeed 0x10000) := by decide

theorem test_decode_eclose :
    decodeWord (wordOf 0 0b0101 0b00 0b00) = .ok .b45Eclose ∧
    decodeWord (wordOf 0 0b0101 0b00 0b01) = .ok .b85Eclose ∧
    decodeWord (wordOf 0 0b0101 0b00 0b10) = .ok .b91Eclose := by decide

theorem test_decode_efail :
    decodeWord (wordOf 0x000007 0b0110 0b00 0b00) = .ok (.b45Efail 7) ∧
    decodeWord (wordOf 0x000005 0b0110 0b00 0b01) = .ok (.b85Efail 5) ∧
    decodeWord (wordOf 0x00002A 0b0110 0b00 0b10) = .ok (.b91Efail 0x2A) := by decide

theorem test_decode_dopen :
    decodeWord (wordOf 0 0b0111 0b00 0b00) = .ok .b45Dopen ∧
    decodeWord (wordOf 0 0b0111 0b00 0b01) = .ok .b85Dopen ∧
    decodeWord (wordOf 0 0b0111 0b00 0b10) = .ok .b91Dopen := by decide

theorem test_decode_dchunk :
    decodeWord (wordOf 0x000005 0b1000 0b00 0b00) = .ok (.b45Dchunk 5) ∧
    decodeWord (wordOf 0x000002 0b1000 0b00 0b01) = .ok (.b85Dchunk 2) ∧
    decodeWord (wordOf 0x7FFFFF 0b1000 0b00 0b10) = .ok (.b91Dchunk 0x7FFFFF) := by decide

theorem test_decode_dread :
    decodeWord (wordOf 0x000001 0b1001 0b00 0b00) = .ok (.b45Dread 1) ∧
    decodeWord (wordOf 0x000004 0b1001 0b00 0b01) = .ok (.b85Dread 4) ∧
    decodeWord (wordOf 0x000010 0b1001 0b00 0b10) = .ok (.b91Dread 16) := by decide

theorem test_decode_deof :
    decodeWord (wordOf 0 0b1010 0b00 0b00) = .ok .b45Deof ∧
    decodeWord (wordOf 0 0b1010 0b00 0b01) = .ok .b85Deof ∧
    decodeWord (wordOf 0 0b1010 0b00 0b10) = .ok .b91Deof := by decide

theorem test_decode_dfail :
    decodeWord (wordOf 0x000007 0b1011 0b00 0b00) = .ok (.b45Dfail 7) ∧
    decodeWord (wordOf 0x000002 0b1011 0b00 0b01) = .ok (.b85Dfail 2) ∧
    decodeWord (wordOf 0x000010 0b1011 0b00 0b10) = .ok (.b91Dfail 16) := by decide

/-- 95_test_vectors.md section 2.9, with the reason the decoder names. -/
theorem test_decode_illegal :
    decodeWord 0x00000000 = .error .reservedOp ∧ decodeWord 0x00000014 = .error .reservedBits ∧
    decodeWord 0x00000023 = .error .reservedEngine ∧ decodeWord 0x00000313 = .error .reservedEngine ∧
    decodeWord 0x000000C1 = .error .reservedOp ∧ decodeWord 0x000000F2 = .error .reservedOp ∧
    decodeWord 0x00000130 = .error .lenNotZero ∧ decodeWord 0x00000151 = .error .lenNotZero ∧
    decodeWord 0x000001A2 = .error .lenNotZero ∧ decodeWord 0x00000170 = .error .lenNotZero := by decide

/-- The window stores the low byte of a word at the lowest offset (20_memory.md R54). -/
theorem test_decode_bytes :
    decodeBytes [0x10, 0x02, 0x00, 0x00, 0xFF] = .ok (.b45Enc 2, [0xFF]) ∧
    decodeBytes [0x10, 0x02, 0x00] = .error .truncated := by
  constructor <;> rfl

/-- The table's row B91.DFAIL with its mask bits alone, and a row whose LEN must be 0. -/
theorem test_decodeTableWord :
    decodeTableWord 32 0x000000B2 = some (.b91Dfail 0) ∧ decodeTableWord 8 0xB2 = some (.b91Dfail 0) ∧
    decodeTableWord 32 0x00000130 = none ∧ decodeTableWord 40 0x100000030 = none := by decide

/-- The first instruction after reset, with its payload of zero bytes (log entry 5): B45.ENC of two. -/
theorem test_withFetchWord :
    (nextOf (step (State.reset.withFetchWord 32 0x00000210))).map (fun t => (t.status, t.out)) =
      some (0x00001000, [0x30, 0x30, 0x30]) := by decide

/-! Illegal words (95_test_vectors.md section 2.9): STATUS, and the payload length. -/

theorem test_illegal_status :
    stepResult 0x00000000 [] .reset 0 = some ⟨0x00000004, 0, 0, 0, [], 0⟩ ∧
    stepResult 0x00000014 [] .reset 0 = some ⟨0x00001004, 0, 0, 0, [], 0⟩ ∧
    stepResult 0x00000313 [1, 2, 3] .reset 0 = some ⟨0x00001304, 0, 0, 0, [], 0⟩ ∧
    stepResult 0x000000C1 [] .reset 0 = some ⟨0x0000C104, 0, 0, 0, [], 0⟩ ∧
    stepResult 0x000001A2 [] .reset 0 = some ⟨0x0000A204, 0, 0, 0, [], 0⟩ := by decide

theorem test_payload_length_is_checked :
    stepResult 0x00000313 [1, 2] .reset 0 = none ∧ stepResult 0x00000130 [1] .reset 0 = none ∧
    stepResult 0x00000210 [1, 2, 3] .reset 0 = none := by decide

/-! The commands, one step each (95_test_vectors.md sections 1.1, 2.10 and the programs P1 to P4). -/

/-- Section 1.1 and section 2.1. -/
theorem test_b45Enc :
    stepResult 0x00000210 [0x41, 0x42] .reset 0 = some ⟨0x00001000, 3, 0, 0, txt "BB8", 0⟩ := by decide +kernel

theorem test_b45Enc_odd :
    stepResult 0x00000310 [0x41, 0x42, 0x43] .reset 0 =
      some ⟨0x00001000, 5, 0, 0, txt "BB8M1", 0⟩ := by decide +kernel

/-- Section 1.1 and P2 step 2. -/
theorem test_b85Enc :
    stepResult 0x00000511 [1, 2, 3, 4, 5] .reset 0 =
      some ⟨0x00001100, 7, 0, 0, [0x21, 0x3C, 0x4E, 0x3F, 0x2B, 0x22, 0x54], 0⟩ := by decide

theorem test_b85Enc_zero :
    stepResult 0x00000511 [0, 0, 0, 0, 0] .reset 0 =
      some ⟨0x00001100, 3, 0, 0, txt "z!!", 0⟩ := by decide

/-- Section 1.1 and section 2.7. -/
theorem test_b91Enc :
    stepResult 0x00000412 [0, 0, 0, 0] .reset 0 =
      some ⟨0x00001200, 5, 0, 0, txt "AAAAA", 0⟩ := by decide

theorem test_b91Enc_pair :
    stepResult 0x00000212 [0xFF, 0xFF] .reset 0 =
      some ⟨0x00001200, 3, 0, 0, [0x42, 0x22, 0x48], 0⟩ := by decide

/-- P1 step 7 and section 2.2. -/
theorem test_b45Dec :
    stepResult 0x00000620 (txt "BB8UM8") .reset 0 =
      some ⟨0x00002000, 4, 0, 0, [0x41, 0x42, 0x43, 0x44], 0⟩ := by decide

theorem test_b45Dec_error :
    stepResult 0x00000620 (txt "BB8:::") .reset 0 = some ⟨0x00002033, 0, 1, 0, [], 0⟩ := by decide

/-- P2 steps 3 and 4. -/
theorem test_b85Dec :
    stepResult 0x00000321 (txt "z!!") .reset 0 = some ⟨0x00002100, 5, 0, 0, [0, 0, 0, 0, 0], 0⟩ := by
  decide

theorem test_b85Dec_error :
    stepResult 0x00000321 (txt "!!z") .reset 0 = some ⟨0x00002123, 0, 2, 0x7A, [], 0⟩ := by decide

/-- Sections 1.1 and 2.8. -/
theorem test_b91Dec :
    stepResult 0x00000522 (txt "fPNKd") .reset 0 =
      some ⟨0x00002200, 4, 0, 0, txt "test", 0⟩ := by decide

theorem test_b91Dec_lone :
    stepResult 0x00000322 (txt "AAA") .reset 0 = some ⟨0x00002200, 2, 0, 0, [0, 0], 0⟩ := by decide

/-- P1 step 1, section 2.10 (EOPEN on a channel with a residual) and P4 step 13. -/
theorem test_b45Eopen :
    stepResult 0x00000030 [] .reset 0x20 = some ⟨0x00003000, 0, 0, 0, [], 0x00000001⟩ := by decide

theorem test_b85Eopen :
    stepResult 0x00000031 [] (withEnc (openRes [1, 2, 3])) 0x24 =
      some ⟨0x00003100, 0, 0, 0, [], 0x00000001⟩ := by decide

theorem test_b91Eopen :
    stepResult 0x00000032 [] (withEnc failedEnc) 0x28 =
      some ⟨0x00003200, 0, 0, 0, [], 0x00000001⟩ := by decide

/-- P1 steps 2 and 6, with the residual of section 2.3. -/
theorem test_b45Efeed :
    stepResult 0x00000140 [0x44] (withEnc (openRes [0x43])) 0x20 =
      some ⟨0x00004000, 3, 0, 0, txt "UM8", 0x00000001⟩ := by decide +kernel

theorem test_b45Efeed_closed :
    stepResult 0x00000140 [0x45] (withEnc closedEnc) 0x20 =
      some ⟨0x00004005, 0, 0, 0, [], 0x00000002⟩ := by decide

/-- Sections 2.6 and 2.10. -/
theorem test_b85Efeed :
    stepResult 0x00000241 [4, 5] (withEnc (openRes [1, 2, 3])) 0x24 =
      some ⟨0x00004100, 5, 0, 0, txt "!<N?+", 0x00000511⟩ := by decide

theorem test_b85Efeed_failed :
    stepResult 0x00000141 [0] (withEnc failedEnc) 0x24 =
      some ⟨0x00004143, 0, 0, 5, [], 0x00000003⟩ := by decide

/-- P4 step 10. -/
theorem test_b91Efeed :
    stepResult 0x00000442 (txt "test") (withEnc (openRes [])) 0x28 =
      some ⟨0x00004200, 4, 0, 0, txt "fPNK", 0x00001D61⟩ := by decide

/-- Section 2.3. -/
theorem test_b45Eclose :
    stepResult 0x00000050 [] (withEnc (openRes [0x41])) 0x20 =
      some ⟨0x00005000, 2, 0, 0, txt "K1", 0x00000002⟩ := by decide

/-- Sections 2.6 and 2.10. -/
theorem test_b85Eclose :
    stepResult 0x00000051 [] (withEnc (openRes [5])) 0x24 =
      some ⟨0x00005100, 2, 0, 0, [0x22, 0x54], 0x00000002⟩ := by decide

theorem test_b85Eclose_idle :
    stepResult 0x00000051 [] .reset 0x24 = some ⟨0x00005105, 0, 0, 0, [], 0⟩ := by decide

/-- P4 steps 15 and 12. -/
theorem test_b91Eclose :
    stepResult 0x00000052 [] (withEnc enc91Held) 0x28 =
      some ⟨0x00005200, 1, 0, 0, txt "d", 0x00000002⟩ := by decide

theorem test_b91Eclose_failed :
    stepResult 0x00000052 [] (withEnc failedEnc) 0x28 =
      some ⟨0x00005243, 0, 0, 5, [], 0x00000003⟩ := by decide

/-- R106 on a closed channel (section 2.10 has the same for base-85). -/
theorem test_b45Efail :
    stepResult 0x00000760 [] (withEnc closedEnc) 0x20 =
      some ⟨0x00006005, 0, 0, 0, [], 0x00000002⟩ := by decide

/-- Section 2.10. -/
theorem test_b85Efail :
    stepResult 0x00000561 [] (withEnc (openRes [1, 2, 3])) 0x24 =
      some ⟨0x00006143, 0, 0, 5, [], 0x00000003⟩ := by decide

theorem test_b85Efail_failed :
    stepResult 0x00000961 [] (withEnc failedEnc) 0x24 =
      some ⟨0x00006143, 0, 0, 5, [], 0x00000003⟩ := by decide

/-- P4 step 11. -/
theorem test_b91Efail :
    stepResult 0x00002A62 [] (withEnc enc91Held) 0x28 =
      some ⟨0x00006243, 0, 0, 0x2A, [], 0x00000003⟩ := by decide

/-- P4 step 5, section 2.10, P3 step 1. -/
theorem test_b45Dopen :
    stepResult 0x00000070 [] (withDec (decRec (.failed upstream5) [])) 0x30 =
      some ⟨0x00007000, 0, 0, 0, [], 0x00000001⟩ := by decide

theorem test_b85Dopen :
    stepResult 0x00000071 [] (withDec (decRec .opened [1, 2, 3])) 0x34 =
      some ⟨0x00007100, 0, 0, 0, [], 0x00000001⟩ := by decide

theorem test_b91Dopen :
    stepResult 0x00000072 [] .reset 0x38 = some ⟨0x00007200, 0, 0, 0, [], 0x00000001⟩ := by decide

/-- P4 steps 2 and 6. -/
theorem test_b45Dchunk_error :
    stepResult 0x00000480 (txt "BB8K") (withDec (decRec .opened [])) 0x30 =
      some ⟨0x00008013, 0, 4, 1, [], 0x00000003⟩ := by decide

theorem test_b45Dchunk :
    stepResult 0x00000280 (txt "K1") (withDec (decRec .opened [])) 0x30 =
      some ⟨0x00008000, 1, 0, 0, [], 0x00000011⟩ := by decide

/-- Section 2.10. -/
theorem test_b85Dchunk :
    stepResult 0x00000381 (txt "!!z") (withDec (decRec .opened [])) 0x34 =
      some ⟨0x00008123, 0, 2, 0x7A, [], 0x00000003⟩ := by decide

theorem test_b85Dchunk_pending :
    stepResult 0x00000181 (txt "z") (withDec (decRec .opened [0, 0, 0, 0])) 0x34 =
      some ⟨0x00008105, 0, 0, 0, [], 0x00000041⟩ := by decide

/-- P3 steps 3 and 4. -/
theorem test_b91Dchunk :
    stepResult 0x00000682 [0x69, 0x22, 0x59, 0x45, 0x25, 0x71] (withDec (decRec .opened [])) 0x38 =
      some ⟨0x00008200, 5, 0, 0, [], 0x00000051⟩ := by decide

theorem test_b91Dchunk_pending :
    stepResult 0x00000582 (txt "brTgZ") (withDec (decRec .opened [1, 2, 3, 4, 5])) 0x38 =
      some ⟨0x00008205, 0, 0, 0, [], 0x00000051⟩ := by decide

/-- R109's example. -/
theorem test_b45Dread :
    stepResult 0x00000190 [] (withDec (decRec .opened [0x41, 0x42])) 0x30 =
      some ⟨0x00009000, 1, 0, 0, [0x41], 0x00000011⟩ := by decide

/-- Section 2.10. -/
theorem test_b85Dread :
    stepResult 0x00000091 [] (withDec (decRec .opened [0, 0, 0, 0])) 0x34 =
      some ⟨0x00009100, 0, 0, 0, [], 0x00000041⟩ := by decide

theorem test_b85Dread_end :
    stepResult 0x00000491 [] (withDec (decRec .eof [])) 0x34 =
      some ⟨0x00009101, 0, 0, 0, [], 0x00000002⟩ := by decide

/-- P3 steps 10 and 2. -/
theorem test_b91Dread :
    stepResult 0x00001092 [] (withDec (decRec .eof (txt "done"))) 0x38 =
      some ⟨0x00009200, 4, 0, 0, txt "done", 0x00000002⟩ := by decide

theorem test_b91Dread_needChunk :
    stepResult 0x00000492 [] (withDec (decRec .opened [])) 0x38 =
      some ⟨0x00009202, 0, 0, 0, [], 0x00000001⟩ := by decide

/-- R110 on a failed channel (P4 step 4 has the same with another error). -/
theorem test_b45Deof :
    stepResult 0x000000A0 [] (withDec (decRec (.failed upstream5) [])) 0x30 =
      some ⟨0x0000A043, 0, 0, 5, [], 0x00000003⟩ := by decide

/-- Section 2.10 and P3 step 9. -/
theorem test_b85Deof :
    stepResult 0x000000A1 [] (withDec (decRec .eof [])) 0x34 =
      some ⟨0x0000A105, 0, 0, 0, [], 0x00000002⟩ := by decide

theorem test_b91Deof :
    stepResult 0x000000A2 [] (withDec (decRec .opened (txt "done"))) 0x38 =
      some ⟨0x0000A200, 0, 0, 0, [], 0x00000042⟩ := by decide

/-- P4 step 7. -/
theorem test_b45Dfail :
    stepResult 0x000007B0 [] (withDec (decRec .opened [0x41])) 0x30 =
      some ⟨0x0000B043, 0, 0, 7, [], 0x00000003⟩ := by decide

/-- Sections 2.9 and 2.10, and R111's example. -/
theorem test_b45Dfail_idle :
    stepResult 0x000007B0 [] .reset 0x30 = some ⟨0x0000B005, 0, 0, 0, [], 0⟩ := by decide

theorem test_b85Dfail :
    stepResult 0x000002B1 [] (withDec (decRec .eof [])) 0x34 =
      some ⟨0x0000B143, 0, 0, 2, [], 0x00000003⟩ := by decide

theorem test_b91Dfail :
    stepResult 0x000010B2 [] (withDec (decRec .opened [])) 0x38 =
      some ⟨0x0000B243, 0, 0, 0x10, [], 0x00000003⟩ := by decide

/-! The conversions on the corner cases of 95_test_vectors.md. -/

/-- Section 2.1. -/
theorem test_enc45_extremes :
    enc45 [0xFF] = txt "U5" ∧ enc45 [0xFF, 0xFF] = txt "FGW" ∧ enc45 [0xFF, 0x00] = txt "UAW" := by decide

theorem test_enc45_hello :
    enc45 (txt "Hello!!") = [0x25, 0x36, 0x39, 0x20, 0x56, 0x44, 0x39, 0x32, 0x45, 0x58, 0x30] := by
  decide

/-- Section 2.2. -/
theorem test_dec45_bounds :
    outcomeOf (dec45 (txt "FGW")) = .inr [0xFF, 0xFF] ∧
    outcomeOf (dec45 (txt "GGW")) = .inl (.of .corrupt 0 0) ∧
    outcomeOf (dec45 (txt "U5")) = .inr [0xFF] ∧
    outcomeOf (dec45 (txt "V5")) = .inl (.of .corrupt 0 0) ∧
    outcomeOf (dec45 [0x20, 0x30]) = .inr [0x24] ∧
    outcomeOf (dec45 (txt "A")) = .inl (.of .invalidLength 1 1) := by decide +kernel

/-- Section 2.4. -/
theorem test_enc85_groups :
    enc85 [0xFF, 0xFF, 0xFF, 0xFF] = txt "s8W-!" ∧ enc85 [0xFF] = txt "rr" ∧
    enc85 [0, 0, 0, 1] = [0x21, 0x21, 0x21, 0x21, 0x22] ∧ enc85 [0, 0, 0] = txt "!!!!" ∧
    enc85 [0, 0, 0, 0, 0xFF] = txt "zrr" ∧ enc85 (txt "sure") = txt "F*2M7" := by decide

/-- Section 2.5. -/
theorem test_dec85_errors :
    outcomeOf (dec85 (txt "uuuuu")) = .inl (.of .corrupt 0 0) ∧
    outcomeOf (dec85 (txt "uu")) = .inl (.of .corrupt 0 0) ∧
    outcomeOf (dec85 (txt "zzz!")) = .inl (.of .invalidLength 4 1) ∧
    outcomeOf (dec85 (txt "!!!!!!")) = .inl (.of .invalidLength 6 1) ∧
    outcomeOf (dec85 (txt "v")) = .inl (.of .illegalChar 0 0x76) ∧
    outcomeOf (dec85 (txt "s8W-!")) = .inr [0xFF, 0xFF, 0xFF, 0xFF] := by decide +kernel

/-- Section 2.7. -/
theorem test_enc91_close :
    close91 b91Params 7 3 = txt "H" ∧ close91 b91Params 255 8 = txt "/C" ∧
    close91 b91Params 89 8 = txt "~A" ∧ close91 b91Params 0 0 = [] ∧
    feed91 b91Params (0, 0) [0x20, 0x20, 0x61, 0x78, 0x79] = ((3887, 13), [0x69, 0x22, 0x59, 0x45]) := by
  decide

/-- Section 2.7, the column `B91_CLOSE_W = 8`. -/
theorem test_closeWidth8 :
    enc91 { b91Params with closeWidth := 8 } [0x00] = txt "A" ∧
    enc91 { b91Params with closeWidth := 8 } [0x59] = txt "~" := by decide

/-- Section 2.8, the column `B91_SEED13 = true`. -/
theorem test_seed13 :
    dec91 { b91Params with seed13 := true } [0x43, 0x22, 0x45, 0x41, 0x41] = [0x00, 0xA0, 0x00, 0x00] ∧
    dec91 { b91Params with seed13 := true } [0x22, 0x22, 0x22] = [0x58, 0x60] ∧
    dec91 b91Params [0x43, 0x22, 0x45, 0x41, 0x41] = [0x00, 0x20, 0x01, 0x00] ∧
    dec91 b91Params [0x22, 0x22, 0x22] = [0x58, 0xA0] := by decide

/-- Section 2.8, the sentinel columns. -/
theorem test_sentinel :
    dec91 { b91Params with sentinel := 91 } [0x41, 0x20, 0x41] = [0x59, 0x20] ∧
    dec91 { b91Params with sentinel := 0 } [0x41, 0x20, 0x41] = [0x00, 0x00] ∧
    dec91 { b91Params with sentinel := 255 } [0x41, 0x20, 0x41] = [0xA5, 0x5A] ∧
    dec91 { b91Params with sentinel := 255 } [0x20, 0x41] = [0xFF] := by decide

/-- Why the alignment of 70_reset_and_hazards.md section 3 is stated for alphabet characters (log entry 9): a
pair of two bytes outside the alphabet can leave bits above the credited ones, which the next chunk loses. -/
theorem test_aligned_split_with_sentinel :
    ∃ t1 t2 : List Byte, t1.length % 2 = 0 ∧
      creditedBits91Of { b91Params with sentinel := 255 } t1 % 8 = 0 ∧
      dec91 { b91Params with sentinel := 255 } (t1 ++ t2) ≠
        dec91 { b91Params with sentinel := 255 } t1 ++ dec91 { b91Params with sentinel := 255 } t2 :=
  ⟨[0x41, 0x41, 0x7E, 0x41, 0x20, 0x20], [0x41, 0x41], by decide⟩

/-! The alphabets (R140, R170, R200). -/

theorem test_alphabets :
    alph45 = txt "0123456789ABCDEFGHIJKLMNOPQRSTUVWXYZ $%*+-./:" ∧ alph45.length = 45 ∧
    alph45.Nodup ∧ alph91.length = 91 ∧ alph91.Nodup ∧ 0x27 ∉ alph91 ∧ 0x2D ∉ alph91 ∧ 0x5C ∉ alph91 ∧
    char85 0 = 0x21 ∧ char85 84 = 0x75 := by decide

/-! The host's actions and the assembler. -/

theorem test_drain_takes_from_the_front :
    (nextOf (step { State.reset with out := [1, 2, 3], hostQueue := [.drain (some 2), .reset] })).map
      (fun t => (t.reply, t.out, t.hostQueue)) = some (.bytes [1, 2], [3], [.reset]) := by decide

theorem test_reset_action :
    nextOf (step { withEnc enc91Held with out := [1], status := 5, hostQueue := [.reset] }) =
      some State.reset := by decide

theorem test_asm_lines :
    parseLine (txt "B45.DREAD 0x10 -- four") = some [.command ⟨.b45Dread 16, []⟩] ∧
    parseLine (txt "B45.EOPEN") = some [.command ⟨.b45Eopen, []⟩] ∧
    parseLine (txt "B85.EFAIL 5") = some [.command ⟨.b85Efail 5, []⟩] ∧
    parseLine (txt "B45.DECODE \"BB8\"") = some [.command ⟨.b45Dec 3, [0x42, 0x42, 0x38]⟩] ∧
    parseLine (txt "READ D91_CH") = some [.read 0x38] ∧ parseLine (txt "-- nothing") = some [] ∧
    parseLine (txt "B45.EOPEN 1") = none ∧ parseLine (txt "B99.EOPEN") = none := by decide

/-- A braced payload and an escaped quote (R81). -/
theorem test_asm_payloads :
    parseLine (txt "B45.ENC " ++ [0x7B] ++ txt "41 42" ++ [0x7D]) =
      some [.command ⟨.b45Enc 2, [0x41, 0x42]⟩] ∧
    parseLine (txt "B85.DEC \"s8W-\\\"\"") =
      some [.command ⟨.b85Dec 5, [0x73, 0x38, 0x57, 0x2D, 0x22]⟩] := by decide

/-- The expansion of `B45.SENC` (R82). -/
theorem test_senc_expansion :
    (streamEncode .b45 [[0x41, 0x42, 0x43], [0x44]]).map (fun x => encode x.instr) =
      [0x00000030, 0x00000340, 0x00000140, 0x00000050] := by decide

/-! For every statement with hypotheses, concrete values that meet them together, each clause at a boundary of
its range where it has one. A theorem bears the name of its statement. -/

/-- The transaction of a command with a payload of zero bytes is its host's next action. -/
def ready (i : Instr) (s : State) : State :=
  issue (encode i) (List.replicate i.payloadBytes 0) s

/-- Two commands that complete: they meet `exec i s = .next t`. -/
theorem witness_completes_enc : ∃ t, exec (.b45Enc 1) (ready (.b45Enc 1) .reset) = .next t := ⟨_, rfl⟩

theorem witness_completes_dread :
    ∃ t, exec (.b91Dread 0xFFFFFF) (ready (.b91Dread 0xFFFFFF) (withDec (decRec .eof [1]))) = .next t :=
  ⟨_, rfl⟩

theorem witness_EncodeOfDecodeIsTheWord :
    decodeWord 0xFFFFFF10 = .ok (.b45Enc 0xFFFFFF) ∧ decodeWord 0x00000030 = .ok .b45Eopen := by decide

theorem witness_EveryWordMatchesOneRowOrIsIllegal :
    decodeWord 0x000000B2 = .ok (.b91Dfail 0) ∧ decodeWord 0x00000132 = .error .lenNotZero ∧
    decodeWord 0x000000C0 = .error .reservedOp := by decide

/-- The two payload classes of R77 at the ends of their OP ranges. -/
theorem witness_IllegalWordsAreExactlyTheReserved :
    payloadLength 0xFFFFFF1C = 0xFFFFFF ∧ payloadLength 0xFFFFFF8F = 0xFFFFFF ∧
    payloadLength 0xFFFFFF0F = 0 ∧ payloadLength 0xFFFFFFFF = 0 ∧ payloadLength 0xFFFFFF90 = 0 := by decide

theorem witness_StepRunsTheDecodedCommand :
    ∃ (s : State) (w : Word) (payload : List Byte) (rest : List HostAction) (i : Instr),
      s.hostQueue = .command w payload :: rest ∧ decodeWord w = .ok i ∧ ∃ t, exec i s = .next t :=
  ⟨issue 0x00000110 [0x41] .reset, 0x00000110, [0x41], [], .b45Enc 1, rfl, rfl, _, rfl⟩

theorem witness_IllegalWordIsAnsweredIllegal :
    ∃ (s : State) (w : Word) (payload : List Byte) (rest : List HostAction) (e : DecodeError),
      s.hostQueue = .command w payload :: rest ∧ decodeWord w = .error e ∧
      payload.length = payloadLength w :=
  ⟨issue 0x00000313 [1, 2, 3] .reset, 0x00000313, [1, 2, 3], [], .reservedEngine, rfl, rfl, by decide⟩

/-- A payload one byte short and one byte long. -/
theorem witness_ActionsThatAreNoTransactionAreRefused_payload :
    ([0x41] : List Byte).length ≠ payloadLength 0x00000210 ∧
    ([0x41, 0x42, 0x43] : List Byte).length ≠ payloadLength 0x00000210 := by decide

/-- A read at the first address past the window, a write of another width, an unaligned read, and a second
host. -/
theorem witness_ActionsThatAreNoTransactionAreRefused_access :
    (∃ s : State, s.hostQueue = [.read (Config.rcbBase + 64) 4] ∧
      Config.rcbBase + 64 ≥ Config.rcbBase + 64) ∧
    (∃ s : State, s.hostQueue = [.write (Config.rcbBase + 4) 2 7] ∧ 2 ≠ 4) ∧
    (∃ s : State, s.hostQueue = [.read (Config.rcbBase + 62) 4] ∧
      (Config.rcbBase + 62 - Config.rcbBase) % 4 ≠ 0) ∧
    (∃ s : State, s.hostQueue = [.otherHost]) :=
  ⟨⟨{ State.reset with hostQueue := [.read (Config.rcbBase + 64) 4] }, rfl, le_refl _⟩,
    ⟨{ State.reset with hostQueue := [.write (Config.rcbBase + 4) 2 7] }, rfl, by decide⟩,
    ⟨{ State.reset with hostQueue := [.read (Config.rcbBase + 62) 4] }, rfl, by simp⟩,
    ⟨{ State.reset with hostQueue := [.otherHost] }, rfl⟩⟩

/-- One admitted action of each kind, the register accesses at the last offset and at CMD. -/
theorem witness_AdmittedActionsComplete :
    (HostAction.command 0x00000210 [1, 2]).admitted ∧ (HostAction.read (Config.rcbBase + 60) 4).admitted ∧
    (HostAction.write (Config.rcbBase + 60) 4 7).admitted ∧
    (HostAction.write (Config.rcbBase + 0) 4 0x00000030).admitted ∧ (HostAction.drain none).admitted ∧
    HostAction.reset.admitted := by
  refine ⟨rfl, ⟨60, ?_⟩, ⟨60, ?_, ?_⟩, ⟨0, ?_, ?_⟩, trivial, trivial⟩
  · exact registerOffset?_of_offset (by decide) (by decide)
  · exact registerOffset?_of_offset (by decide) (by decide)
  · exact fun h => absurd h (by decide)
  · exact registerOffset?_of_offset (by decide) (by decide)
  · exact fun _ => by decide

/-- A read of the last register and of a reserved one, and a write past CMD: each action is the host's next. -/
theorem witness_RegisterAccessSideEffects :
    ∃ s : State, s.hostQueue = [.read (Config.rcbBase + 60) 4] ∧ (60 : Nat) < 64 ∧ 60 % 4 = 0 ∧
      ∃ t, step s = .next t := by
  refine ⟨{ State.reset with hostQueue := [.read (Config.rcbBase + 60) 4] }, rfl, by decide, by decide, ?_⟩
  simp [step, serviceHost, performAction, readAccess,
    registerOffset?_of_offset (o := 60) (by decide) (by decide)]

theorem witness_RegisterAccessSideEffects_keep :
    ∃ (s t : State) (a : HostAction), s.hostQueue = [a] ∧ (∃ n, a = .drain n) ∧ step s = .next t :=
  ⟨{ State.reset with out := [1], hostQueue := [.drain none] }, _, .drain none, rfl, ⟨none, rfl⟩, rfl⟩

/-- Writes past CMD, at the first and the last such offset, and the step each takes. -/
theorem witness_RegisterAccessSideEffects_write :
    ∀ o ∈ [4, 60], 0 < o ∧ o < 64 ∧ o % 4 = 0 ∧ ∃ s t : State,
      s.hostQueue = [.write (Config.rcbBase + o) 4 7] ∧ s.status = 5 ∧ step s = .next t ∧ t.status = 5 := by
  intro o ho
  have h : 0 < o ∧ o < 64 ∧ o % 4 = 0 := by
    rcases List.mem_cons.1 ho with rfl | h
    · decide
    · rw [List.mem_singleton.1 h]; decide
  refine ⟨h.1, h.2.1, h.2.2,
    { State.reset with status := 5, hostQueue := [.write (Config.rcbBase + o) 4 7] },
    { State.reset with status := 5 }, rfl, rfl, ?_, rfl⟩
  simp [step, serviceHost, performAction, writeAccess, registerOffset?_of_offset h.2.1 h.2.2,
    Nat.ne_of_gt h.1, State.complete]
  rfl

theorem witness_RegisterAccessSideEffects_cmd :
    ∃ s : State, s.hostQueue = [.write Config.rcbBase 4 0x00000030] :=
  ⟨{ State.reset with hostQueue := [.write Config.rcbBase 4 0x00000030] }, rfl⟩

theorem witness_ReservedAndReadOnlyOffsets :
    ∃ s t u : State, (0x3C : Nat) ∈ [0x14, 0x18, 0x1C, 0x2C, 0x3C] ∧
      s.hostQueue = [.read (Config.rcbBase + 0x3C) 4] ∧
      t.hostQueue = [.write (Config.rcbBase + 0x04) 4 0xFFFFFFFF] ∧
      u.hostQueue = [.read Config.rcbBase 4] :=
  ⟨{ State.reset with hostQueue := [.read (Config.rcbBase + 0x3C) 4] },
    { State.reset with hostQueue := [.write (Config.rcbBase + 0x04) 4 0xFFFFFFFF] },
    { State.reset with hostQueue := [.read Config.rcbBase 4] }, by decide, rfl, rfl, rfl⟩

/-- The largest residual of each engine. -/
theorem witness_EncoderChannelRegisters :
    residualFits .b45 (openRes [0xFF]) ∧ residualFits .b85 (openRes [1, 2, 0xFF]) ∧
    residualFits .b91 { st := .opened, res := [], acc := 8191, nbits := 13 } ∧
    residualFits .b91 { st := .closed, res := [], acc := 0, nbits := 0 } := by
  simp only [residualFits, openRes]
  decide

/-- The decoder invariant on a channel with bytes pending, and on a FAILED one. -/
theorem witness_DecoderChannelRegisters :
    DecInv .b45 (decRec .opened [1, 2, 3]) ∧ DecInv .b91 (decRec (.failed upstream5) []) := by
  refine ⟨⟨?_, by decide, ?_⟩, ⟨fun _ => rfl, by decide, ?_⟩⟩
  · rintro (h | ⟨err, h⟩) <;> cases h
  · intro err h; cases h
  · rintro err h
    cases h
    exact ⟨⟨rfl, by decide⟩, fun _ => rfl⟩

theorem witness_ResetStateOfTheBlock :
    ∃ s t : State, s.hostQueue = [.reset] ∧ step s = .next t ∧ s.status ≠ 0 :=
  ⟨{ withEnc enc91Held with status := 5, hostQueue := [.reset] }, _, rfl, rfl, by decide⟩

/-- The residual limits hold of a block that holds 29 in 6 bits, and its next action completes. -/
theorem witness_EncoderResidualInvariant :
    ∃ s t : State, (∀ e, ResidualInv e (s.enc.get e)) ∧ s.enc.b91.nbits = 6 ∧ step s = .next t := by
  refine ⟨issue 0x00000052 []
    { State.reset with enc := ⟨openRes [0x41], openRes [1, 2, 3], enc91Held⟩ }, _, ?_, rfl, rfl⟩
  intro e
  cases e <;> refine ⟨?_, fun h => absurd rfl h⟩
  · exact ⟨by decide, rfl, rfl⟩
  · exact ⟨by decide, rfl, rfl⟩
  · exact ⟨rfl, by decide, by decide⟩

/-- The invariant of the block holds of the reset block, with DFAIL as its next action. -/
theorem witness_EveryStepKeepsTheInvariant :
    ∃ s t : State, Inv s ∧ s.dec.b45.pend = [1] ∧ step s = .next t := by
  refine ⟨issue 0x000007B0 [] { State.reset with dec := ⟨decRec .opened [1], .reset, .reset⟩ }, _,
    ⟨?_, ?_, ?_, ?_⟩, rfl, rfl⟩
  · intro e
    cases e <;> refine ⟨?_, fun _ => ⟨rfl, rfl, rfl⟩⟩
    · exact ⟨by decide, rfl, rfl⟩
    · exact ⟨by decide, rfl, rfl⟩
    · exact ⟨rfl, by decide, by decide⟩
  · intro e err h
    cases e <;> cases h
  · intro e
    cases e
    · refine ⟨?_, by decide, ?_⟩
      · rintro (h | ⟨err, h⟩) <;> cases h
      · intro err h; cases h
    · exact ⟨fun _ => rfl, by decide, fun err h => by cases h⟩
    · exact ⟨fun _ => rfl, by decide, fun err h => by cases h⟩
  · exact ⟨by decide, by decide, by decide, by decide, by decide, fun _ => ⟨rfl, rfl⟩, fun _ => rfl⟩

/-- The three channel states R101 turns a command away in, and the payload it requires. -/
theorem witness_EncoderChannelCheck :
    Instr.op (.b85Efeed 1) ∈ [Op.efeed, .eclose, .efail] ∧
    (ready (.b85Efeed 1) (withEnc failedEnc)).dataIn.length = Instr.payloadBytes (.b85Efeed 1) ∧
    ((ready (.b85Efeed 1) (withEnc failedEnc)).enc.get .b85).st = .failed upstream5 ∧
    ((ready (.b85Efeed 1) .reset).enc.get .b85).st = .idle ∧
    ((ready (.b85Efeed 1) (withEnc closedEnc)).enc.get .b85).st = .closed := by decide

/-- The states R102 turns a command away in: for DEOF also EOF. -/
theorem witness_DecoderChannelCheck :
    Instr.op .b91Deof ∈ [Op.dchunk, .dread, .deof, .dfail] ∧
    (ready .b91Deof (withDec (decRec .eof []))).dataIn.length = Instr.payloadBytes .b91Deof ∧
    ((ready .b91Deof (withDec (decRec .eof []))).dec.get .b91).st = .eof ∧
    decide (Instr.op .b91Deof ∈ [Op.dread, .dfail]) = false ∧
    ((ready .b91Deof .reset).dec.get .b91).st = .idle ∧
    ((ready .b91Deof (withDec (decRec (.failed upstream5) []))).dec.get .b91).st = .failed upstream5 := by
  decide

/-- A command without a payload finds the data-in port empty: EOPEN, DOPEN, ECLOSE, EFAIL, DREAD, DEOF and
DFAIL. -/
theorem witness_EopenMakesAFreshInstance :
    (ready .b45Eopen (withEnc failedEnc)).dataIn = [] ∧ Instr.b45Eopen ∈ [Instr.b45Eopen, .b85Eopen, .b91Eopen] ∧
    (nextOf (exec .b45Eopen (ready .b45Eopen (withEnc failedEnc)))).isSome = true := by decide

theorem witness_EfailLatchesTheSinkFailure :
    (ready (.b85Efail 5) (withEnc (openRes [1]))).dataIn = [] ∧
    ((ready (.b85Efail 5) (withEnc (openRes [1]))).enc.get .b85).st = .opened ∧
    (nextOf (exec (.b85Efail 5) (ready (.b85Efail 5) (withEnc (openRes [1]))))).isSome = true := by decide

theorem witness_DopenMakesAFreshInstance :
    (ready .b91Dopen (withDec (decRec .eof [1]))).dataIn = [] ∧
    (nextOf (exec .b91Dopen (ready .b91Dopen (withDec (decRec .eof [1]))))).isSome = true := by decide

/-- Each clause of R109: bytes pending before and at the end of the source, and none pending in both. -/
theorem witness_DreadDeliversFromTheFront :
    (ready (.b45Dread 0) (withDec (decRec .opened [0x41, 0x42]))).dataIn = [] ∧
    (withDec (decRec .opened [0x41, 0x42])).dec.b45.pend ≠ [] ∧
    (withDec (decRec .eof [0x41])).dec.b85.st = .eof ∧ (withDec (decRec .eof [0x41])).dec.b85.pend ≠ [] ∧
    (withDec (decRec .eof [])).dec.b91.pend = [] ∧ (withDec (decRec .opened [])).dec.b91.pend = [] ∧
    (nextOf (exec (.b45Dread 1) (ready (.b45Dread 1) (withDec (decRec .opened [0x41, 0x42]))))).isSome =
      true := by decide

theorem witness_DeofEndsTheSource :
    (ready .b85Deof (withDec (decRec .opened [7]))).dataIn = [] ∧
    ((ready .b85Deof (withDec (decRec .opened [7]))).dec.get .b85).st = .opened := by decide

theorem witness_DfailLatchesTheSourceFailure :
    (ready (.b91Dfail 0x10) (withDec (decRec .eof [7]))).dataIn = [] ∧
    ((ready (.b91Dfail 0x10) (withDec (decRec .eof [7]))).dec.get .b91).st = .eof ∧
    ((ready (.b91Dfail 0x10) (withDec (decRec .opened [7]))).dec.get .b91).st = .opened ∧
    (nextOf (exec (.b91Dfail 0x10) (ready (.b91Dfail 0x10) (withDec (decRec .opened []))))).isSome = true := by
  decide

theorem witness_B45EncEmitsTheEncoding :
    (ready (.b45Enc 2) .reset).dataIn.length = (2 : Len).toNat ∧ ([1, 2] : List Byte).length % 2 = 0 := by
  decide

/-- A payload of each kind of outcome: decoded, of a wrong length, with an illegal character, and too large. -/
theorem witness_B45DecEmitsTheDecoding :
    (issue 0x00000420 (txt "ABCD") .reset).dataIn.length = (4 : Len).toNat ∧
    outcomeOf (dec45 (txt "BB8")) = .inr [0x41, 0x42] ∧
    outcomeOf (dec45 (txt "ABCD")) = .inl (.of .invalidLength 4 1) ∧
    outcomeOf (dec45 (txt "ab8")) = .inl (.of .illegalChar 0 0x61) ∧
    outcomeOf (dec45 (txt "BB8:::")) = .inl (.of .corrupt 1 0) ∧
    (nextOf (exec (.b45Dec 4) (issue 0x00000420 (txt "ABCD") .reset))).isSome = true := by decide +kernel

theorem witness_B45EfeedEmitsWholeGroups :
    (ready (.b45Efeed 2) (withEnc (openRes [0x41]))).dataIn.length = (2 : Len).toNat ∧
    (ready (.b45Efeed 2) (withEnc (openRes [0x41]))).enc.b45.st = .opened ∧
    ([0x41] : List Byte).length ≤ 1 := by decide

theorem witness_B45EcloseFlushesAndCloses :
    (ready .b45Eclose (withEnc (openRes [0x41]))).dataIn = [] ∧
    (ready .b45Eclose (withEnc (openRes [0x41]))).enc.b45.st = .opened := by decide

/-- An OPEN channel with nothing pending, with a chunk that decodes and one that does not; and one with bytes
pending. -/
theorem witness_B45DchunkFillsThePendingBuffer :
    (issue 0x00000480 (txt "BB8K") (withDec (decRec .opened []))).dataIn.length = (4 : Len).toNat ∧
    (withDec (decRec .opened [])).dec.b45.st = .opened ∧ (withDec (decRec .opened [])).dec.b45.pend = [] ∧
    outcomeOf (dec45 (txt "BB8K")) = .inl (.of .invalidLength 4 1) ∧
    outcomeOf (dec45 (txt "K1")) = .inr [0x41] ∧
    (withDec (decRec .opened [1])).dec.b45.pend ≠ [] ∧ (txt "A").length % 3 = 1 := by decide +kernel

/-- A front of whole groups, with a partial group of one byte and one of three behind it. -/
theorem witness_B85EncEmitsTheEncoding :
    (ready (.b85Enc 5) .reset).dataIn.length = (5 : Len).toNat ∧ ([1, 2, 3, 4] : List Byte).length % 4 = 0 ∧
    1 ≤ ([5] : List Byte).length ∧ ([5, 6, 7] : List Byte).length ≤ 3 := by decide

/-- A full group whose number is 0 and the largest, and the shortest and the longest partial group. -/
theorem witness_Base85DigitsOfFullAndPartialGroups :
    bigEndianNumber [0, 0, 0, 0] = 0 ∧ bigEndianNumber [0xFF, 0xFF, 0xFF, 0xFF] = 2 ^ 32 - 1 ∧
    84 < 85 ∧ 1 ≤ ([0] : List Byte).length ∧ ([0, 0, 1] : List Byte).length ≤ 3 := by decide

/-- Each error of the scan with nothing wrong before it: a `v` at the start, a `z` inside a group, and a group
whose fifth character takes it above 2^32 - 1. -/
theorem witness_Base85DecodeErrorPrecedence :
    scanError85 (txt "v") 0 (.of .illegalChar 0 0x76) ∧
    (scanError85 (txt "!z") 1 (.of .illegalChar 1 0x7A) ∧ ∀ q < 1, ∀ e, ¬ scanError85 (txt "!z") q e) ∧
    (scanError85 (txt "uuuuu") 4 (.of .corrupt 0 0) ∧ ∀ q < 4, ∀ e, ¬ scanError85 (txt "uuuuu") q e) := by
  refine ⟨⟨0x76, rfl, .inl ⟨?_, by decide, rfl⟩⟩, ⟨⟨0x7A, rfl, .inr (.inl ⟨rfl, by decide, rfl⟩)⟩, ?_⟩,
    ⟨⟨0x75, rfl, .inr (.inr ⟨?_, by decide, by decide, rfl⟩)⟩, ?_⟩⟩
  · unfold isDigit85; decide
  · rintro q hq e ⟨c, hc, h⟩
    interval_cases q
    cases hc
    rcases h with ⟨h, -⟩ | ⟨h, -⟩ | ⟨-, h, -⟩
    · exact h ⟨by decide, by decide⟩
    · exact absurd h (by decide)
    · exact absurd h (by decide)
  · exact ⟨by decide, by decide⟩
  · rintro q hq e ⟨c, hc, h⟩
    interval_cases q <;> cases hc <;> rcases h with ⟨h, -⟩ | ⟨h, -⟩ | ⟨-, h, -⟩ <;>
      first | exact h ⟨by decide, by decide⟩ | exact absurd h (by decide)

/-- A text of one digit has no error in the scan; its error is at its end. -/
theorem noScanError_one_digit (p : Nat) (e : ErrorValue) : ¬ scanError85 (txt "!") p e := by
  rintro ⟨c, hc, h⟩
  match p with
  | 0 =>
    cases hc
    rcases h with ⟨h, -⟩ | ⟨h, -⟩ | ⟨-, h, -⟩
    · exact h ⟨by decide, by decide⟩
    · exact absurd h (by decide)
    · exact absurd h (by decide)
  | p + 1 => cases hc

theorem witness_Base85DecodeErrorPrecedence_end :
    (∀ p e, ¬ scanError85 (txt "!") p e) ∧ endError85 (txt "!") (.of .invalidLength 1 1) ∧
    endError85 (txt "uu") (.of .corrupt 0 0) :=
  ⟨noScanError_one_digit, .inl ⟨by decide, rfl⟩, .inr ⟨by decide, by decide, rfl⟩⟩

/-- The empty text has neither. -/
theorem witness_Base85DecodeErrorPrecedence_ok :
    (∀ p e, ¬ scanError85 [] p e) ∧ ∀ e, ¬ endError85 [] e := by
  refine ⟨?_, ?_⟩
  · rintro p e ⟨c, hc, -⟩
    cases hc
  · rintro e (⟨h, -⟩ | ⟨h, -⟩) <;> exact absurd h (by decide)

theorem witness_B85DecEmitsTheDecoding :
    (issue 0x00000521 [0x73, 0x38, 0x57, 0x2D, 0x22] .reset).dataIn.length = (5 : Len).toNat ∧
    outcomeOf (dec85 [0x73, 0x38, 0x57, 0x2D, 0x22]) = .inl (.of .corrupt 0 0) ∧
    outcomeOf (dec85 (txt "!!z")) = .inl (.of .illegalChar 2 0x7A) ∧
    outcomeOf (dec85 (txt "z!")) = .inl (.of .invalidLength 2 1) ∧
    outcomeOf (dec85 (txt "!!")) = .inr [0] ∧
    (nextOf (exec (.b85Dec 5) (issue 0x00000521 [0x73, 0x38, 0x57, 0x2D, 0x22] .reset))).isSome = true := by
  decide +kernel

/-- The largest number of a group of five, and of a group of two, whose decodings are 42_base85.md's. -/
theorem witness_B85DecEmitsTheDecoding_group :
    (∀ c ∈ txt "s8W-!", isDigit85 c) ∧ groupNumber85 (txt "s8W-!") = 2 ^ 32 - 1 ∧
    (∀ c ∈ txt "!!", isDigit85 c) ∧ groupNumber85 (txt "!!" ++ txt "uuu") ≤ 2 ^ 32 - 1 ∧
    outcomeOf (dec85 (txt "s8W-!")) = .inr [0xFF, 0xFF, 0xFF, 0xFF] := by
  unfold isDigit85
  decide +kernel

theorem witness_B85EfeedEmitsWholeGroups :
    (ready (.b85Efeed 2) (withEnc (openRes [1, 2, 3]))).dataIn.length = (2 : Len).toNat ∧
    (ready (.b85Efeed 2) (withEnc (openRes [1, 2, 3]))).enc.b85.st = .opened ∧
    ([0] : List Byte) ++ [0, 0, 0] = [0, 0, 0, 0] ∧ ([1, 2, 3] : List Byte).length ≤ 3 := by decide

theorem witness_B85EcloseFlushesAndCloses :
    (ready .b85Eclose (withEnc (openRes [1, 2, 3]))).dataIn = [] ∧
    (ready .b85Eclose (withEnc (openRes [1, 2, 3]))).enc.b85.st = .opened ∧
    1 ≤ ([1, 2, 3] : List Byte).length := by decide

theorem witness_B85DchunkFillsThePendingBuffer :
    (issue 0x00000281 (txt "zz") (withDec (decRec .opened []))).dataIn.length = (2 : Len).toNat ∧
    (withDec (decRec .opened [])).dec.b85.st = .opened ∧ (withDec (decRec .opened [])).dec.b85.pend = [] ∧
    outcomeOf (dec85 (txt "zz")) = .inr [0, 0, 0, 0, 0, 0, 0, 0] ∧
    outcomeOf (dec85 (txt "v")) = .inl (.of .illegalChar 0 0x76) ∧
    (withDec (decRec .opened [1])).dec.b85.pend ≠ [] := by decide +kernel

theorem witness_B91EncEmitsTheEncoding :
    (ready (.b91Enc 4) .reset).dataIn.length = (4 : Len).toNat := by decide

theorem witness_B91DecNeverFails :
    (ready (.b91Dec 5) .reset).dataIn.length = (5 : Len).toNat ∧ (0x27 : Byte) ∉ alph91 ∧
    (0xFF : Byte) ∉ alph91 := by decide

/-- The pairs of values 88 and 89, with no bits held and with 7 held: R208 credits 14 bits to the first and
13 to the second. -/
theorem witness_B91DecNeverFails_pair :
    (88 + 0 * 91) % 8192 ≤ 88 ∧ (89 + 0 * 91) % 8192 > 88 ∧
    pair91 b91Params 0 0 88 0 = ((0, 6), [88]) ∧ pair91 b91Params 0 0 89 0 = ((0, 5), [89]) ∧
    pair91 b91Params 127 7 89 0 = ((0, 4), [0xFF, 0x2C]) := by decide

/-- An OPEN channel that holds 13 bits, all of them 1. -/
theorem witness_B91EfeedPacksTheBits :
    ∃ s : State, s.dataIn.length = (4 : Len).toNat ∧ s.enc.b91.st = .opened ∧
      s.enc.b91.nbits = 13 ∧ residualFits .b91 s.enc.b91 :=
  ⟨ready (.b91Efeed 4) (withEnc { st := .opened, res := [], acc := 8191, nbits := 13 }), by decide, rfl, rfl,
    rfl, by decide, by decide⟩

theorem witness_B91EcloseFlushesAndCloses :
    (ready .b91Eclose (withEnc enc91Held)).dataIn = [] ∧
    (ready .b91Eclose (withEnc enc91Held)).enc.b91.st = .opened ∧ (0 : Nat) < 7 := by decide

theorem witness_B91DchunkFillsThePendingBuffer :
    (ready (.b91Dchunk 5) (withDec (decRec .opened []))).dataIn.length = (5 : Len).toNat ∧
    (withDec (decRec .opened [])).dec.b91.st = .opened ∧ (withDec (decRec .opened [])).dec.b91.pend = [] ∧
    (withDec (decRec .opened [1])).dec.b91.pend ≠ [] := by decide

/-- A FAILED channel and a step that completes, and the command itself on it. -/
theorem witness_FailedChannelsStayFailed :
    ∃ s t : State, step s = .next t ∧ (s.enc.get .b91).st = .failed upstream5 ∧
      s.dataIn.length = Instr.payloadBytes (.b91Efeed 2) ∧
      Instr.op (.b91Efeed 2) ∈ [Op.efeed, .eclose, .efail] :=
  ⟨ready (.b91Efeed 2) (withEnc failedEnc), _, rfl, rfl, by decide, by decide⟩

theorem witness_FailedChannelsStayFailed_decoder :
    ∃ s t : State, step s = .next t ∧ (s.dec.get .b45).st = .failed upstream5 ∧
      s.dataIn.length = Instr.payloadBytes (.b45Dread 2) ∧
      Instr.op (.b45Dread 2) ∈ [Op.dchunk, .dread, .deof, .dfail] :=
  ⟨ready (.b45Dread 2) (withDec (decRec (.failed upstream5) [])), _, rfl, rfl, by decide, by decide⟩

/-- A command of each group of R114 that completes. -/
theorem witness_CommandsTouchOnlyTheirOwnChannel :
    (∃ t, exec (.b91Enc 0) (ready (.b91Enc 0) .reset) = .next t) ∧
    (∃ t, exec .b85Eclose (ready .b85Eclose (withEnc (openRes [1]))) = .next t) ∧
    (∃ t, exec .b45Deof (ready .b45Deof (withDec (decRec .opened [1]))) = .next t) ∧
    Engine.b45 ≠ Instr.engine .b85Eclose :=
  ⟨⟨_, rfl⟩, ⟨_, rfl⟩, ⟨_, rfl⟩, by decide⟩

/-- EFAIL on an OPEN channel completes with that channel FAILED; EFEED on it completes too. -/
theorem witness_EncodersFailOnlyUpstream :
    (∃ t, exec (.b85Efail 5) (ready (.b85Efail 5) (withEnc (openRes []))) = .next t ∧
      (t.enc.get .b85).st = .failed upstream5) ∧
    (∃ t, exec (.b85Efeed 3) (ready (.b85Efeed 3) (withEnc (openRes []))) = .next t) :=
  ⟨⟨_, rfl, rfl⟩, ⟨_, rfl⟩⟩

theorem witness_OutIsAppendedAndDrainedInOrder :
    ∃ s t : State, s.hostQueue = [.drain (some 2)] ∧ s.out = [1, 2, 3] ∧ step s = .next t :=
  ⟨{ State.reset with out := [1, 2, 3], hostQueue := [.drain (some 2)] }, _, rfl, rfl, rfl⟩

/-- Commands that latch their error: EFAIL on an OPEN channel, DFAIL on an OPEN one and on one at EOF, and a
DCHUNK that does not decode on an OPEN one with nothing pending. -/
theorem witness_ErrorsArePrecise :
    (∃ t, exec (.b85Efail 5) (ready (.b85Efail 5) (withEnc (openRes [1]))) = .next t ∧
      statusResult t.status = 3 ∧ (t.enc.get .b85).st = .failed upstream5) ∧
    (∃ t, exec (.b91Dfail 5) (ready (.b91Dfail 5) (withDec (decRec .opened [1]))) = .next t ∧
      statusResult t.status = 3 ∧ t.dec.get .b91 = decRec (.failed upstream5) []) ∧
    (∃ t, exec (.b45Dfail 5) (ready (.b45Dfail 5) (withDec (decRec .eof [1]))) = .next t ∧
      statusResult t.status = 3 ∧ t.dec.get .b45 = decRec (.failed upstream5) []) ∧
    (∃ t, exec (.b45Dchunk 1) (issue 0x00000180 (txt "A") (withDec (decRec .opened []))) = .next t ∧
      statusResult t.status = 3 ∧ t.dec.get .b45 = decRec (.failed (.of .invalidLength 1 1)) []) :=
  ⟨⟨_, rfl, by decide, by decide⟩, ⟨_, rfl, by decide, by decide⟩, ⟨_, rfl, by decide, by decide⟩,
    ⟨_, rfl, by decide +kernel, by decide +kernel⟩⟩

/-- Commands that are turned away: DFAIL with STATE on an IDLE channel and with the latched error on a FAILED
one, DCHUNK with STATE while bytes are pending, ECLOSE with STATE, and an illegal word. -/
theorem witness_ErrorsArePrecise_turned_away :
    (∃ t, exec (.b45Dfail 7) (ready (.b45Dfail 7) .reset) = .next t ∧ statusResult t.status = 5) ∧
    (∃ t, exec (.b45Dfail 7) (ready (.b45Dfail 7) (withDec (decRec (.failed upstream5) []))) = .next t ∧
      statusResult t.status = 3 ∧ t.errAux = 5) ∧
    (∃ t, exec (.b85Dchunk 1) (ready (.b85Dchunk 1) (withDec (decRec .opened [1]))) = .next t ∧
      statusResult t.status = 5) ∧
    (∃ t, exec .b91Eclose (ready .b91Eclose .reset) = .next t ∧ statusResult t.status = 5) ∧
    (∃ t, step (issue 0x00000013 [] .reset) = .next t) :=
  ⟨⟨_, rfl, by decide⟩, ⟨_, rfl, by decide, by decide⟩, ⟨_, rfl, by decide⟩, ⟨_, rfl, by decide⟩, ⟨_, rfl⟩⟩

/-- Three parts, one of them empty, and their lengths. -/
theorem witness_EncodingIsChunkIndependent :
    (∀ p ∈ [[0x41], [], [0x42, (0x43 : Byte)]], p.length < 2 ^ 24) ∧
    [[0x41], [], [0x42, (0x43 : Byte)]].flatten.length < 2 ^ 24 := by decide

theorem witness_Base45EncodingLengthAndFeeds : ([0x41] : List Byte).length ≤ 1 := by decide

/-- A text for each clause of R148: a bad length, an illegal character behind a legal one, and an overflowing
group behind one that is not. -/
theorem witness_Base45DecodeErrorPrecedence :
    (txt "A").length % 3 = 1 ∧
    ((txt "Aa8").length % 3 ≠ 1 ∧ (txt "Aa8")[1]? = some 0x61 ∧ (0x61 : Byte) ∉ alph45 ∧
      ∀ c ∈ (txt "Aa8").take 1, c ∈ alph45) ∧
    ((txt "BB8:::").length % 3 ≠ 1 ∧ (∀ c ∈ txt "BB8:::", c ∈ alph45) ∧
      (group45 (txt "BB8:::") 1).length = 3 ∧ groupNumber45 (group45 (txt "BB8:::") 1) > 65535 ∧
      ¬ groupNumber45 (group45 (txt "BB8:::") 0) > 65535) := by decide +kernel

/-- A short group that overflows: its number is 256. -/
theorem witness_Base45DecodeErrorPrecedence_short :
    (txt "V5").length % 3 ≠ 1 ∧ (∀ c ∈ txt "V5", c ∈ alph45) ∧ overflows45 (txt "V5") 0 :=
  ⟨by decide, by decide, .inr ⟨by decide, by decide⟩⟩

/-- A text that is in the alphabet and has no group too large. -/
theorem witness_Base45DecodeErrorPrecedence_ok :
    (txt "K1").length % 3 ≠ 1 ∧ (∀ c ∈ txt "K1", c ∈ alph45) ∧ ∀ g, ¬ overflows45 (txt "K1") g := by
  refine ⟨by decide, by decide, fun g h => ?_⟩
  match g with
  | 0 => exact h.elim (fun h => absurd h.1 (by decide)) (fun h => absurd h.2 (by decide))
  | g + 1 =>
    have e : group45 (txt "K1") (g + 1) = [] := by
      simp only [group45]
      rw [List.drop_eq_nil_of_le (by simp [txt, ascii]; omega)]
      rfl
    rw [overflows45, e] at h
    exact h.elim (fun h => absurd h.1 (by decide)) (fun h => absurd h.1 (by decide))

theorem witness_Base45DecodingLength :
    outcomeOf (dec45 (txt "BB8K1")) = .inr [0x41, 0x42, 0x41] ∧
    ((nextOf (exec (.b45Dchunk 2) (issue 0x00000280 (txt "K1") (withDec (decRec .opened []))))).map
      fun t => statusResult t.status) = some 0 := by decide +kernel

theorem witness_Base85DecodingLength :
    outcomeOf (dec85 (txt "z!!")) = .inr [0, 0, 0, 0, 0] ∧
    ((nextOf (exec (.b85Dchunk 2) (issue 0x00000281 (txt "zz") (withDec (decRec .opened []))))).map
      fun t => statusResult t.status) = some 0 := by decide +kernel

theorem witness_Base91DecodingLength :
    ((nextOf (exec (.b91Dchunk 5) (issue 0x00000582 (txt "fPNKd") (withDec (decRec .opened []))))).map
      fun t => statusResult t.status) = some 0 := by decide +kernel

theorem witness_Base85RoundTrip : 1 ≤ 3 ∧ 3 ≤ 3 := by decide

/-- A full accumulator that takes another byte and emits a pair. -/
theorem witness_Base91EncoderInvariant :
    13 ≤ 13 ∧ 8191 < 2 ^ 13 ∧ (step91 b91Params (8191, 13) 0xFF).2 ≠ [] := by decide

/-- Each case of the step at its boundary, on numbers worked out from R205: 13 bits, nothing emitted; 14 bits
of the number 89, 13 consumed; 14 bits of the numbers 88 and 8192 + 88, all 14 consumed. -/
theorem witness_Base91EncoderInvariant_cases :
    step91 b91Params (31, 5) 0xFF = ((8191, 13), []) ∧
    step91 b91Params (25, 6) 1 = ((0, 1), [charOf alph91 89, charOf alph91 0]) ∧
    step91 b91Params (24, 6) 1 = ((0, 0), [charOf alph91 88, charOf alph91 0]) ∧
    step91 b91Params (24, 6) 129 = ((0, 0), [charOf alph91 90, charOf alph91 90]) := by decide

/-- `a` is outside the base-45 alphabet. -/
theorem witness_Base45DigitsOfPairAndSingle : ∀ v < 45, charOf alph45 v ≠ 0x61 := by decide

/-- A split of each engine's text at a group boundary. -/
theorem witness_AlignedSplitsDecodePiecewise :
    (txt "BB8").length % 3 = 0 ∧ outcomeOf (dec45 (txt "BB8")) = .inr [0x41, 0x42] ∧
    outcomeOf (dec45 (txt "K1")) = .inr [0x41] ∧
    openChars85 0 (txt "z") = 0 ∧ outcomeOf (dec85 (txt "z")) = .inr [0, 0, 0, 0] ∧
    outcomeOf (dec85 (txt "!!")) = .inr [0] ∧
    ([0x69, 0x22, 0x59, 0x45, 0x25, 0x71] : List Byte).length % 2 = 0 ∧
    creditedBits91Of b91Params [0x69, 0x22, 0x59, 0x45, 0x25, 0x71] % 8 = 0 ∧
    (∀ c ∈ ([0x69, 0x22, 0x59, 0x45, 0x25, 0x71] : List Byte), c ∈ alph91) := by decide +kernel

end Sys2Proof.Tests
end

section
/-! PROOFS. The register window and `Finish` (10_state.md rules R29 to R38): register accesses and read-only
views (ReservedAndReadOnlyOffsets, EncoderChannelRegisters), and the report of every command that completes
(EveryCommandEndsWithOneFinish). -/

namespace Sys2Proof.Machine

/-! Register accesses. -/

/-- The step of an admitted register read (R55). -/
theorem step_read_of_offset {s : State} {o : Nat} {rest : List HostAction} (ho : o < 64) (h4 : o % 4 = 0)
    (hq : s.hostQueue = .read (Config.rcbBase + o) 4 :: rest) :
    step s = .next { s with hostQueue := rest, reply := .word (s.readRegister o) } := by
  simp [step, serviceHost, hq, performAction, readAccess, registerOffset?_of_offset ho h4, State.complete]

/-- The step of an admitted register write past CMD, where every register is read-only or reserved (R38). -/
theorem step_write_of_offset {s : State} {o : Nat} {value : Word} {rest : List HostAction} (hpos : 0 < o)
    (ho : o < 64) (h4 : o % 4 = 0) (hq : s.hostQueue = .write (Config.rcbBase + o) 4 value :: rest) :
    step s = .next { s with hostQueue := rest } := by
  simp [step, serviceHost, hq, performAction, writeAccess, registerOffset?_of_offset ho h4, hpos.ne',
    State.complete]

/-- CMD and the reserved offsets read 0 (R31, R38). -/
theorem readRegister_of_reserved (s : State) {o : Nat} (ho : o ∈ [0x00, 0x14, 0x18, 0x1C, 0x2C, 0x3C]) :
    s.readRegister o = 0 := by
  simp only [List.mem_cons, List.not_mem_nil, or_false] at ho
  rcases ho with rfl | rfl | rfl | rfl | rfl | rfl <;> rfl

/-- An admitted read of CMD or of a reserved offset returns 0. -/
theorem step_read_of_reserved {s : State} {o : Nat} {rest : List HostAction}
    (ho : o ∈ [0x00, 0x14, 0x18, 0x1C, 0x2C, 0x3C])
    (hq : s.hostQueue = .read (Config.rcbBase + o) 4 :: rest) :
    step s = .next { s with hostQueue := rest, reply := .word 0 } := by
  have aligned : ∀ a ∈ [0x00, 0x14, 0x18, 0x1C, 0x2C, 0x3C], a < 64 ∧ a % 4 = 0 := by decide
  rw [step_read_of_offset (aligned o ho).1 (aligned o ho).2 hq, readRegister_of_reserved s ho]

/-! Fields of a register put together by `place`. -/

/-- The field at its own place. -/
theorem extractLsb'_place_same {n : Nat} (v : BitVec n) {lo : Nat} (h : lo + n ≤ 32) :
    (place v lo).extractLsb' lo n = v := by
  refine BitVec.eq_of_getLsbD_eq fun i hi => ?_
  have hlt : lo + i < 32 := by omega
  rw [BitVec.getLsbD_extractLsb', getLsbD_place]
  simp [hi, hlt]

/-- A placed field leaves the bits below and above it 0. -/
theorem extractLsb'_place_disjoint {n : Nat} (v : BitVec n) {lo lo' n' : Nat}
    (h : lo + n ≤ lo' ∨ lo' + n' ≤ lo) : (place v lo).extractLsb' lo' n' = 0 := by
  refine BitVec.eq_of_getLsbD_eq fun i hi => ?_
  rw [BitVec.getLsbD_extractLsb', getLsbD_place]
  rcases h with below | above
  · have hv : v.getLsbD (lo' + i - lo) = false := BitVec.getLsbD_of_ge v _ (by omega)
    simp [hv]
  · have hlo : ¬ lo ≤ lo' + i := by omega
    simp [hlo]

/-- The fields of E45_CH (R34). -/
theorem viewE45_fields (c : EncChannel) :
    (viewE45 c).extractLsb' 0 2 = c.st.code ∧ (viewE45 c).extractLsb' 2 2 = 0 ∧
    (viewE45 c).extractLsb' 4 2 = residualCount c ∧ (viewE45 c).extractLsb' 6 2 = 0 ∧
    (viewE45 c).extractLsb' 8 8 = c.res.getD 0 0 ∧ (viewE45 c).extractLsb' 16 16 = 0 := by
  simp [viewE45, BitVec.extractLsb'_or, extractLsb'_place_same, extractLsb'_place_disjoint]

/-- The fields of E85_CH below the residual bytes (R35). -/
theorem viewE85_fields (c : EncChannel) :
    (viewE85 c).extractLsb' 0 2 = c.st.code ∧ (viewE85 c).extractLsb' 2 2 = 0 ∧
    (viewE85 c).extractLsb' 4 2 = residualCount c ∧ (viewE85 c).extractLsb' 6 2 = 0 := by
  simp [viewE85, BitVec.extractLsb'_or, extractLsb'_place_same, extractLsb'_place_disjoint]

/-- RB0, RB1 and RB2 of E85_CH (R35). -/
theorem viewE85_residual (c : EncChannel) {k : Nat} (hk : k < 3) :
    (viewE85 c).extractLsb' (8 + 8 * k) 8 = c.res.getD k 0 := by
  interval_cases k <;>
    simp [viewE85, BitVec.extractLsb'_or, extractLsb'_place_same, extractLsb'_place_disjoint]

/-- The fields of E91_CH (R36). -/
theorem viewE91_fields (c : EncChannel) :
    (viewE91 c).extractLsb' 0 2 = c.st.code ∧ (viewE91 c).extractLsb' 2 2 = 0 ∧
    (viewE91 c).extractLsb' 4 4 = c.nbits ∧ (viewE91 c).extractLsb' 8 13 = c.acc ∧
    (viewE91 c).extractLsb' 21 11 = 0 := by
  simp [viewE91, BitVec.extractLsb'_or, extractLsb'_place_same, extractLsb'_place_disjoint]

/-- RCNT is the residual's length where the residual is at most three bytes. -/
theorem residualCount_toNat {c : EncChannel} (h : c.res.length ≤ 3) :
    (residualCount c).toNat = c.res.length := by
  rw [residualCount, BitVec.toNat_ofNat]
  omega

/-! What a completed command reports. -/

/-- `t` has performed one `Finish` for the command `c` with COUNT `n`, and its error fields are 0 unless
RESULT is ERROR (R32). -/
def Finished (t : State) (c : CmdId) (n : Nat) : Prop :=
  ∃ r kind pos aux, Reports t c r kind pos aux n ∧ (kind ≠ 0 ↔ r = .error) ∧
    (r ≠ .error → pos = 0 ∧ aux = 0)

/-- `t` has performed one `Finish` for `c`, with COUNT the number of bytes its OUT has after `out`. -/
def CountsOut (out : List Byte) (t : State) (c : CmdId) : Prop :=
  ∃ o, t.out = out ++ o ∧ Finished t c o.length

/-- `t` leaves OUT at `s.out` and has performed one `Finish` for `c`, with COUNT the number of bytes put in
the pending buffer of engine `e`. -/
def CountsPend (s t : State) (c : CmdId) (e : Engine) : Prop :=
  t.out = s.out ∧ ∃ o, (t.dec.get e).pend = (s.dec.get e).pend ++ o ∧ Finished t c o.length

/-- ERRKIND is 0 for no error kind (R240). -/
theorem ErrKind.code_ne_zero (k : ErrKind) : k.code ≠ 0 := by cases k <;> decide

theorem finished_finishOk (s : State) (c : CmdId) (n : Nat) : Finished (s.finishOk c n) c n :=
  ⟨.ok, 0, 0, 0, s.finish_reports c .ok 0 0 0 n, by simp, fun _ => ⟨rfl, rfl⟩⟩

theorem finished_finishBare (s : State) (c : CmdId) {r : Result} (h : r ≠ .error) :
    Finished (s.finishBare c r) c 0 :=
  ⟨r, 0, 0, 0, s.finish_reports c r 0 0 0 0, by simp [h], fun _ => ⟨rfl, rfl⟩⟩

theorem finished_finishError (s : State) (c : CmdId) (err : ErrorValue) :
    Finished (s.finishError c err) c 0 :=
  ⟨.error, err.kind.code, err.pos, err.aux, s.finish_reports c .error _ _ _ 0,
    iff_of_true err.kind.code_ne_zero rfl, fun h => absurd rfl h⟩

theorem countsOut_finishOk (s : State) (c : CmdId) : CountsOut s.out (s.finishOk c 0) c :=
  ⟨[], (List.append_nil _).symm, finished_finishOk s c 0⟩

theorem countsOut_finishBare (s : State) (c : CmdId) {r : Result} (h : r ≠ .error) :
    CountsOut s.out (s.finishBare c r) c :=
  ⟨[], (List.append_nil _).symm, finished_finishBare s c h⟩

theorem countsOut_finishError (s : State) (c : CmdId) (err : ErrorValue) :
    CountsOut s.out (s.finishError c err) c :=
  ⟨[], (List.append_nil _).symm, finished_finishError s c err⟩

theorem countsOut_deliver (s : State) (c : CmdId) (bytes : List Byte) :
    CountsOut s.out (s.deliver c bytes) c :=
  ⟨bytes, rfl, finished_finishOk (s.emit bytes) c bytes.length⟩

/-- A command behind `CheckEnc` counts what it appends to OUT when its own work does. -/
theorem countsOut_checkEnc (c : CmdId) (e : Engine) (s : State) {work : EncChannel → State}
    (h : CountsOut s.out (work (s.enc.get e)) c) : CountsOut s.out (checkEnc c e s work) c := by
  obtain ⟨err, -, heq⟩ | ⟨-, heq⟩ | ⟨-, heq⟩ := checkEnc_cases c e s work <;> rw [heq]
  · exact countsOut_finishError s c err
  · exact countsOut_finishBare s c (by decide)
  · exact h

/-- A command behind `CheckDec` counts what it appends to OUT when its own work does. -/
theorem countsOut_checkDec (c : CmdId) (e : Engine) (eofOk : Bool) (s : State) {work : DecChannel → State}
    (h : CountsOut s.out (work (s.dec.get e)) c) : CountsOut s.out (checkDec c e eofOk s work) c := by
  obtain ⟨err, -, heq⟩ | ⟨-, heq⟩ | ⟨-, heq⟩ := checkDec_cases c e eofOk s work <;> rw [heq]
  · exact countsOut_finishError s c err
  · exact countsOut_finishBare s c (by decide)
  · exact h

theorem countsOut_decodeWhole (e : Engine) (r : Except ErrorValue (List Byte)) (s : State) :
    CountsOut s.out (decodeWhole e r s) (cmdId e .dec) := by
  obtain ⟨err, -, heq⟩ | ⟨bytes, -, heq⟩ := decodeWhole_cases e r s <;> rw [heq]
  · exact countsOut_finishError s _ err
  · exact countsOut_deliver s _ bytes

theorem countsOut_readPending (e : Engine) (n : Len) (s : State) :
    CountsOut s.out (readPending e n s) (cmdId e .dread) := by
  refine countsOut_checkDec _ e true s ?_
  split
  · exact countsOut_deliver (s.setDec e _) _ _
  · split
    · exact countsOut_finishBare s _ (by decide)
    · exact countsOut_finishBare s _ (by decide)

/-- Every command but DCHUNK counts the bytes it appends to OUT. -/
theorem countsOut_effect (i : Instr) (s : State) (p : List Byte) (hop : i.op ≠ .dchunk) :
    CountsOut s.out (effect i s p) (cmdIdOf i) := by
  unfold effect cmdIdOf
  cases h : i.op with
  | enc => exact countsOut_deliver s _ _
  | dec => exact countsOut_decodeWhole _ _ s
  | eopen => exact countsOut_finishOk (s.setEnc _ _) _
  | efeed => exact countsOut_checkEnc _ _ s (countsOut_deliver (s.setEnc _ _) _ _)
  | eclose => exact countsOut_checkEnc _ _ s (countsOut_deliver (s.setEnc _ _) _ _)
  | efail => exact countsOut_checkEnc _ _ s (countsOut_finishError (s.setEnc _ _) _ _)
  | dopen => exact countsOut_finishOk (s.setDec _ _) _
  | dchunk => exact absurd h hop
  | dread => exact countsOut_readPending _ _ s
  | deof => exact countsOut_checkDec _ _ _ s (countsOut_finishOk (s.setDec _ _) _)
  | dfail => exact countsOut_checkDec _ _ _ s (countsOut_finishError (s.setDec _ _) _ _)

/-- DCHUNK counts the bytes it puts in the pending buffer, which is empty whenever it changes it (R108). -/
theorem countsPend_chunkChannel (e : Engine) (r : Except ErrorValue (List Byte)) (s : State) :
    CountsPend s (chunkChannel e r s) (cmdId e .dchunk) e := by
  obtain ⟨err, -, heq⟩ | ⟨-, heq⟩ | ⟨-, hempty, ⟨err, -, heq⟩ | ⟨bytes, -, heq⟩⟩ :=
    chunkChannel_cases e r s <;> rw [heq]
  · exact ⟨rfl, [], (List.append_nil _).symm, finished_finishError s _ err⟩
  · exact ⟨rfl, [], (List.append_nil _).symm, finished_finishBare s _ (by decide)⟩
  · exact ⟨rfl, [], by simp [State.failDec, State.finishError, hempty],
      finished_finishError (s.setDec e _) _ err⟩
  · exact ⟨rfl, bytes, by simp [State.finishOk, hempty], finished_finishOk (s.setDec e _) _ _⟩

/-! The obligations. -/

/-- Settles O11: each admitted access is at its offset, where CMD and the reserved registers read 0 and no
register but CMD takes a write. -/
theorem reservedAndReadOnlyOffsets : Obligations.ReservedAndReadOnlyOffsets := by
  refine ⟨fun s rest o ho hq => ?_, fun s value rest o ho hq => ?_, fun s rest hq => ?_⟩
  · exact step_read_of_reserved (List.mem_cons_of_mem _ ho) hq
  · have admitted : ∀ a ∈ [0x04, 0x08, 0x0C, 0x10, 0x14, 0x18, 0x1C, 0x20, 0x24, 0x28, 0x2C, 0x30, 0x34,
        0x38, 0x3C], 0 < a ∧ a < 64 ∧ a % 4 = 0 := by decide
    obtain ⟨hpos, hlt, h4⟩ := admitted o ho
    exact step_write_of_offset hpos hlt h4 hq
  · exact step_read_of_reserved (o := 0) (by decide) hq

/-- Settles O12, from the fields of each view; the residual limits make RCNT exact and bound ACC. -/
theorem encoderChannelRegisters : Obligations.EncoderChannelRegisters := by
  refine ⟨fun s ⟨hres, _⟩ => ?_, fun s ⟨hres, _⟩ => ?_, fun s ⟨_, _, hacc⟩ => ?_⟩
  · obtain ⟨hst, hgap, hcnt, hgap', hrb0, hhigh⟩ := viewE45_fields s.enc.b45
    exact ⟨hst, hgap, hcnt ▸ residualCount_toNat (by omega), hgap',
      fun b hb => hrb0.trans (by simp [hb]), fun hnil => hrb0.trans (by simp [hnil]), hhigh⟩
  · obtain ⟨hst, hgap, hcnt, hgap'⟩ := viewE85_fields s.enc.b85
    exact ⟨hst, hgap, hcnt ▸ residualCount_toNat hres, hgap', fun k hk =>
      ⟨fun b hb => (viewE85_residual _ hk).trans (by simp [hb]),
        fun hnone => (viewE85_residual _ hk).trans (by simp [hnone])⟩⟩
  · obtain ⟨hst, hgap, hnbits, haccField, hhigh⟩ := viewE91_fields s.enc.b91
    exact ⟨hst, hgap, hnbits, haccField, fun j hj =>
      Nat.testBit_lt_two_pow (hacc.trans_le (Nat.pow_le_pow_right two_pos hj)), hhigh⟩

/-- Settles O14, by the effect of the command: DCHUNK counts into its pending buffer, every other command
into OUT. -/
theorem everyCommandEndsWithOneFinish : Obligations.EveryCommandEndsWithOneFinish := by
  refine ⟨State.finish_reports, fun s => ⟨rfl, rfl, rfl, rfl⟩, fun i s t hexec => ?_⟩
  obtain ⟨-, rfl⟩ := exec_eq_next.1 hexec
  by_cases hop : i.op = .dchunk
  · have hcount : CountsPend s (effect i s s.dataIn) (cmdIdOf i) i.engine := by
      simpa only [effect, cmdIdOf, hop] using countsPend_chunkChannel i.engine _ s
    obtain ⟨hout, o, hpend, r, kind, pos, aux, hreports, hkind, hzero⟩ := hcount
    exact ⟨r, kind, pos, aux, o.length, hreports, hkind, hzero, by
      rw [if_pos hop]; exact ⟨hout, o, hpend, rfl⟩⟩
  · obtain ⟨o, hout, r, kind, pos, aux, hreports, hkind, hzero⟩ := countsOut_effect i s s.dataIn hop
    exact ⟨r, kind, pos, aux, o.length, hreports, hkind, hzero, by
      rw [if_neg hop]; exact ⟨o, hout, rfl⟩⟩

end Sys2Proof.Machine
end

section
/-! PROOFS. The command word and its illegal encodings (30_encoding.md rules R70 to R77): which words are illegal
(IllegalWordsAreExactlyTheReserved), and what the block answers to one (IllegalWordIsAnsweredIllegal). -/

namespace Sys2Proof.Machine

/-! The fields of a command word as arithmetic on its value (R70). -/

theorem engField_toNat (w : Word) : (engField w).toNat = w.toNat % 4 := by
  simp [engField]

theorem rsvField_toNat (w : Word) : (rsvField w).toNat = w.toNat / 4 % 4 := by
  simp [rsvField, Nat.shiftRight_eq_div_pow]

theorem opField_toNat (w : Word) : (opField w).toNat = w.toNat / 16 % 16 := by
  simp [opField, Nat.shiftRight_eq_div_pow]

theorem lenField_toNat (w : Word) : (lenField w).toNat = w.toNat / 256 := by
  simp only [lenField, BitVec.extractLsb'_toNat, Nat.shiftRight_eq_div_pow]
  omega

/-! The codes of the engines and operations (R71, R72). -/

/-- The one reserved ENG code. -/
theorem engineOfCode?_eq_none {c : BitVec 2} : Engine.ofCode? c = none ↔ c.toNat = 3 := by
  revert c
  decide

/-- The reserved OP codes. -/
theorem opOfCode?_eq_none {c : BitVec 4} : Op.ofCode? c = none ↔ c.toNat = 0 ∨ 12 ≤ c.toNat := by
  revert c
  decide

/-- The OP codes of the operations whose LEN must be 0; no reserved code is one of them. -/
theorem any_lenMustBeZero_opOfCode? {c : BitVec 4} :
    (Op.ofCode? c).any Op.lenMustBeZero = true ↔ c.toNat ∈ [3, 5, 7, 10] := by
  revert c
  decide

/-! `Decode` and the payload length (R73, R75). -/

/-- `Decode` refuses a word exactly where one of its four checks fails. -/
theorem exists_decodeWord_eq_error {w : Word} :
    (∃ e, decodeWord w = .error e) ↔
      rsvField w ≠ 0 ∨ Engine.ofCode? (engField w) = none ∨ Op.ofCode? (opField w) = none ∨
        ((Op.ofCode? (opField w)).any Op.lenMustBeZero = true ∧ lenField w ≠ 0) := by
  unfold decodeWord
  split
  case isTrue hrsv => exact iff_of_true ⟨_, rfl⟩ (.inl hrsv)
  case isFalse hrsv =>
    cases heng : Engine.ofCode? (engField w) with
    | none => simp
    | some e =>
      cases hop : Op.ofCode? (opField w) with
      | none => simp
      | some o =>
        dsimp only
        split
        case isTrue hlen => exact iff_of_true ⟨_, rfl⟩ (.inr (.inr (.inr hlen)))
        case isFalse hlen => exact iff_of_false (by simp) (by simpa [not_ne_iff.1 hrsv] using hlen)

/-- The payload length by the OP code and LEN alone. -/
theorem payloadLength_eq (w : Word) :
    payloadLength w = if (opField w).toNat ∈ [1, 2, 4, 8] then (lenField w).toNat else 0 := by
  simp [payloadLength, BitVec.toNat_eq]

/-! The step on an illegal word (R76). -/

/-- The step of a command transaction is the write of its word to CMD. -/
theorem step_command {s : State} {w : Word} {payload : List Byte} {rest : List HostAction}
    (hq : s.hostQueue = .command w payload :: rest) : step s = runCommandWord w s := by
  simp [step, serviceHost, hq, performAction]

/-- The data-in port of a command transaction carries its payload (R51). -/
theorem dataIn_command {s : State} {w : Word} {payload : List Byte} {rest : List HostAction}
    (hq : s.hostQueue = .command w payload :: rest) : s.dataIn = payload := by
  simp [State.dataIn, hq]

/-- With the payload length its OP and LEN require, an illegal word gets the ILLEGAL answer. -/
theorem runCommandWord_of_error {s : State} {w : Word} {e : DecodeError} (hw : decodeWord w = .error e)
    (hlen : s.dataIn.length = payloadLength w) :
    runCommandWord w s = .next (s.finishBare (cmdIdOfWord w) .illegal) := by
  simp only [runCommandWord, hw]
  exact onTransaction_of_length hlen

/-- `Finish` writes the result registers, ends the transaction and leaves everything else alone. -/
theorem State.finish_onlyReported (s : State) (c : CmdId) (r : Result) (kind : BitVec 4) (pos aux : Word)
    (count : Nat) : OnlyReported s (s.finish c r kind pos aux count) :=
  ⟨rfl, rfl, rfl, rfl, rfl⟩

/-! The obligations. -/

/-- Settles O3: the four checks of `Decode`, with each field written as arithmetic on the word. -/
theorem illegalWordsAreExactlyTheReserved : Obligations.IllegalWordsAreExactlyTheReserved := by
  intro w
  rw [exists_decodeWord_eq_error, engineOfCode?_eq_none, opOfCode?_eq_none, any_lenMustBeZero_opOfCode?,
    BitVec.toNat_ne, BitVec.toNat_ne, payloadLength_eq, engField_toNat, rsvField_toNat, opField_toNat,
    lenField_toNat, or_assoc]
  exact ⟨Iff.rfl, rfl⟩

/-- Settles O7: the step is one `Finish(ILLEGAL)` with the word's own ENG and OP bits, and `Finish` touches
only the result registers. -/
theorem illegalWordIsAnsweredIllegal : Obligations.IllegalWordIsAnsweredIllegal := by
  intro s w payload rest e hq hw hlen
  have hstep : step s = .next (s.finishBare (cmdIdOfWord w) .illegal) :=
    (step_command hq).trans (runCommandWord_of_error hw (by rw [dataIn_command hq, hlen]))
  exact ⟨_, hstep, s.finish_reports (cmdIdOfWord w) .illegal 0 0 0 0,
    s.finish_onlyReported (cmdIdOfWord w) .illegal 0 0 0 0⟩

end Sys2Proof.Machine
end

section
/-! PROOFS. The word of a command read back (30_encoding.md rules R70 to R75), STATUS by its fields (10_state.md
rule R32), and one transaction of the host performed at once. -/

namespace Sys2Proof.Machine

/-! The fields of an encoded command (R70). -/

theorem engField_encode (i : Instr) : engField (encode i) = i.engine.code := by
  simp [engField, encode, BitVec.extractLsb'_or, extractLsb'_place_same, extractLsb'_place_disjoint]

theorem rsvField_encode (i : Instr) : rsvField (encode i) = 0 := by
  simp [rsvField, encode, BitVec.extractLsb'_or, extractLsb'_place_disjoint]

theorem opField_encode (i : Instr) : opField (encode i) = i.op.code := by
  simp [opField, encode, BitVec.extractLsb'_or, extractLsb'_place_same, extractLsb'_place_disjoint]

theorem lenField_encode (i : Instr) : lenField (encode i) = i.len := by
  simp [lenField, encode, BitVec.extractLsb'_or, extractLsb'_place_same, extractLsb'_place_disjoint]

/-- OP of an encoded command, as arithmetic on the word. -/
theorem encode_toNat_op (i : Instr) : (encode i).toNat / 16 % 16 = i.op.code.toNat := by
  rw [← opField_toNat, opField_encode]

/-! `Decode` reads an encoded command back (R75). -/

theorem engineOfCode?_code (e : Engine) : Engine.ofCode? e.code = some e := by cases e <;> decide

theorem opOfCode?_code (o : Op) : Op.ofCode? o.code = some o := by cases o <;> decide

theorem Instr.ofFields_eq_self (i : Instr) : Instr.ofFields i.op i.engine i.len = i := by cases i <;> rfl

theorem Instr.len_of_lenMustBeZero {i : Instr} (h : i.op.lenMustBeZero = true) : i.len = 0 := by
  cases i <;> simp_all [Instr.op, Op.lenMustBeZero, Instr.len]

theorem decodeWord_encode (i : Instr) : decodeWord (encode i) = .ok i := by
  simp only [decodeWord, rsvField_encode, engField_encode, opField_encode, lenField_encode,
    engineOfCode?_code, opOfCode?_code, Instr.ofFields_eq_self]
  rw [if_neg (not_not.2 rfl), if_neg fun ⟨hzero, hlen⟩ => hlen (Instr.len_of_lenMustBeZero hzero)]

/-! STATUS is determined by the fields of its report (R32). -/

/-- Two words with the same six fields of STATUS are equal. -/
theorem status_ext {v w : Word} (hresult : statusResult v = statusResult w)
    (hkind : statusErrKind v = statusErrKind w) (heng : statusEng v = statusEng w)
    (hgap : statusGap v = statusGap w) (hop : statusOp v = statusOp w)
    (hhigh : statusHigh v = statusHigh w) : v = w := by
  simp only [statusResult, statusErrKind, statusEng, statusGap, statusOp, statusHigh, BitVec.toNat_eq,
    BitVec.extractLsb'_toNat, Nat.shiftRight_eq_div_pow] at hresult hkind heng hgap hop hhigh
  apply BitVec.eq_of_toNat_eq
  omega

theorem Reports.status_eq {t : State} {c : CmdId} {r : Result} {kind : BitVec 4} {pos aux : Word}
    {count : Nat} (h : Reports t c r kind pos aux count) : t.status = statusWord c r kind := by
  apply status_ext <;> simp [h.result, h.kind, h.eng, h.gap, h.op, h.high]

/-! Transactions without a payload (R72, R73). -/

theorem Instr.payloadBytes_of_bare {i : Instr} (hop : i.op.carriesPayload = false) : i.payloadBytes = 0 := by
  simp [Instr.payloadBytes, hop]

/-- A command without a payload is given the payload it requires exactly when the data-in port is empty. -/
theorem dataIn_length_eq_of_bare {i : Instr} {s : State} (hop : i.op.carriesPayload = false) :
    s.dataIn.length = i.payloadBytes ↔ s.dataIn = [] := by
  rw [Instr.payloadBytes_of_bare hop, List.length_eq_zero_iff]

/-- With the data-in port empty, a command whose operation has no payload is given what it requires. -/
theorem dataIn_length_of_bare {i : Instr} {s : State} {o : Op} (hop : i.op = o)
    (hbare : o.carriesPayload = false) (hdata : s.dataIn = []) : s.dataIn.length = i.payloadBytes :=
  (dataIn_length_eq_of_bare (hop ▸ hbare)).2 hdata

/-- A command without a payload completes only with an empty data-in port. -/
theorem dataIn_eq_nil_of_exec {i : Instr} {s t : State} (hop : i.op.carriesPayload = false)
    (h : exec i s = .next t) : s.dataIn = [] :=
  (dataIn_length_eq_of_bare hop).1 (exec_eq_next.1 h).1

theorem Instr.op_ofFields (o : Op) (e : Engine) (n : Len) : (Instr.ofFields o e n).op = o := by
  cases o <;> cases e <;> rfl

theorem Instr.engine_ofFields (o : Op) (e : Engine) (n : Len) : (Instr.ofFields o e n).engine = e := by
  cases o <;> cases e <;> rfl

@[simp] theorem bareTransaction_op (o : Op) (e : Engine) (n : Nat) : (bareTransaction o e n).instr.op = o :=
  Instr.op_ofFields o e _

@[simp] theorem bareTransaction_engine (o : Op) (e : Engine) (n : Nat) :
    (bareTransaction o e n).instr.engine = e :=
  Instr.engine_ofFields o e _

/-- What a completing command is known to end in holds of the state it ends in. -/
theorem of_exec_eq_next {i : Instr} {s t : State} {P : State → Prop}
    (hex : ∃ t, exec i s = .next t ∧ P t) (h : exec i s = .next t) : P t := by
  obtain ⟨t', ht', hP⟩ := hex
  obtain rfl : t' = t := by injection ht'.symm.trans h
  exact hP

/-- The host presents a transaction before its pending actions. -/
def State.presenting (s : State) (x : Transaction) : State :=
  { s with hostQueue := hostAction x :: s.hostQueue }

@[simp] theorem State.presenting_dec (s : State) (x : Transaction) : (s.presenting x).dec = s.dec := rfl
@[simp] theorem State.presenting_out (s : State) (x : Transaction) : (s.presenting x).out = s.out := rfl
@[simp] theorem State.presenting_dataIn (s : State) (x : Transaction) :
    (s.presenting x).dataIn = x.payload := rfl

/-- A transaction performed at once is its command on its payload. -/
theorem performNow_hostAction (x : Transaction) (s : State) :
    performNow (hostAction x) s = exec x.instr (s.presenting x) := by
  change step (s.presenting x) = _
  rw [step_command (w := encode x.instr) rfl, runCommandWord, decodeWord_encode]

/-- A sequence of transactions whose first command completes goes on from the state that command leaves. -/
theorem issueAll_cons_of_exec {x : Transaction} {xs : List Transaction} {s t : State}
    (h : exec x.instr (s.presenting x) = .next t) : issueAll (x :: xs) s = issueAll xs t := by
  rw [issueAll, performNow_hostAction, h, andThen]

end Sys2Proof.Machine
end

section
/-! PROOFS. The channel commands (40_streaming.md): the channel checks of R101 and R102 (EncoderChannelCheck,
DecoderChannelCheck), and the commands shared by the three engines, R104 to R111 (EopenMakesAFreshInstance,
EfailLatchesTheSinkFailure, DopenMakesAFreshInstance, DreadDeliversFromTheFront, DeofEndsTheSource,
DfailLatchesTheSourceFailure). Each command is treated once, for any `i` with its operation, so that the
three engines are one case. -/

namespace Sys2Proof.Machine

/-! What `Finish` and a channel write leave alone. -/

/-- A channel write ended by `Finish` changes that encoder channel alone. -/
theorem State.finish_encChanged (s : State) (e : Engine) (ch : EncChannel) (c : CmdId) (r : Result)
    (kind : BitVec 4) (pos aux : Word) (count : Nat) :
    EncChanged s ((s.setEnc e ch).finish c r kind pos aux count) e ch [] where
  channel := by simp
  others _ hne := by simp [PerEngine.get_set_of_ne _ _ hne]
  dec := rfl
  out := by simp
  consumed := ⟨rfl, rfl⟩

/-- A channel write and an `Emit`, ended by `Finish`, change that decoder channel and append to OUT. -/
theorem State.deliver_decChanged (s : State) (e : Engine) (ch : DecChannel) (c : CmdId)
    (bytes : List Byte) : DecChanged s ((s.setDec e ch).deliver c bytes) e ch bytes where
  channel := by simp [State.deliver, State.finishOk]
  others _ hne := by simp [State.deliver, State.finishOk, PerEngine.get_set_of_ne _ _ hne]
  enc := rfl
  out := rfl
  consumed := ⟨rfl, rfl⟩

/-- A channel write ended by `Finish` changes that decoder channel alone. -/
theorem State.finish_decChanged (s : State) (e : Engine) (ch : DecChannel) (c : CmdId) (r : Result)
    (kind : BitVec 4) (pos aux : Word) (count : Nat) :
    DecChanged s ((s.setDec e ch).finish c r kind pos aux count) e ch [] where
  channel := by simp
  others _ hne := by simp [PerEngine.get_set_of_ne _ _ hne]
  enc := rfl
  out := by simp
  consumed := ⟨rfl, rfl⟩

/-! The channel checks (R101, R102). -/

/-- A command whose effect is one error report is answered with that error. -/
theorem answeredLatched_of_effect {i : Instr} {s : State} {err : ErrorValue}
    (hlen : s.dataIn.length = i.payloadBytes)
    (h : effect i s s.dataIn = s.finishError (cmdIdOf i) err) : AnsweredLatched i s err :=
  ⟨_, exec_eq_next.2 ⟨hlen, h⟩, s.finish_reports _ .error _ _ _ 0, s.finish_onlyReported _ .error _ _ _ 0⟩

/-- A command whose effect is one bare report is answered with that result. -/
theorem answeredBare_of_effect {i : Instr} {s : State} {r : Result}
    (hlen : s.dataIn.length = i.payloadBytes)
    (h : effect i s s.dataIn = s.finishBare (cmdIdOf i) r) : AnsweredBare i s r :=
  ⟨_, exec_eq_next.2 ⟨hlen, h⟩, s.finish_reports _ r 0 0 0 0, s.finish_onlyReported _ r 0 0 0 0⟩

/-- EFEED, ECLOSE and EFAIL are `CheckEnc` over their own work. -/
theorem effect_eq_checkEnc {i : Instr} (hop : i.op ∈ [Op.efeed, .eclose, .efail]) (s : State)
    (p : List Byte) : ∃ work, effect i s p = checkEnc (cmdIdOf i) i.engine s work := by
  unfold effect cmdIdOf
  simp only [List.mem_cons, List.not_mem_nil, or_false] at hop
  rcases hop with h | h | h <;> rw [h] <;> exact ⟨_, rfl⟩

/-- DCHUNK, DREAD, DEOF and DFAIL are `CheckDec` over their own work; DREAD and DFAIL admit EOF. -/
theorem effect_eq_checkDec {i : Instr} (hop : i.op ∈ [Op.dchunk, .dread, .deof, .dfail]) (s : State)
    (p : List Byte) :
    ∃ work, effect i s p =
      checkDec (cmdIdOf i) i.engine (decide (i.op ∈ [Op.dread, .dfail])) s work := by
  unfold effect cmdIdOf
  simp only [List.mem_cons, List.not_mem_nil, or_false] at hop
  rcases hop with h | h | h | h <;> rw [h] <;> exact ⟨_, rfl⟩

/-- `CheckDec` (R102) on a FAILED channel. -/
theorem checkDec_failed {c : CmdId} {e : Engine} {eofOk : Bool} {s : State} {work : DecChannel → State}
    {err : ErrorValue} (h : (s.dec.get e).st = .failed err) :
    checkDec c e eofOk s work = s.finishError c err := by simp [checkDec, h]

/-- `CheckDec` (R102) in a state that does not admit the command. -/
theorem checkDec_notAdmitted {c : CmdId} {e : Engine} {eofOk : Bool} {s : State}
    {work : DecChannel → State}
    (h : (s.dec.get e).st = .idle ∨ ((s.dec.get e).st = .eof ∧ eofOk = false)) :
    checkDec c e eofOk s work = s.finishBare c .state := by
  rcases h with h | ⟨h, hno⟩
  · simp [checkDec, h]
  · simp [checkDec, h, hno]

/-- `CheckDec` (R102) in a state that admits the command. -/
theorem checkDec_admitted {c : CmdId} {e : Engine} {eofOk : Bool} {s : State} {work : DecChannel → State}
    (h : (s.dec.get e).st = .opened ∨ ((s.dec.get e).st = .eof ∧ eofOk = true)) :
    checkDec c e eofOk s work = work (s.dec.get e) := by
  rcases h with h | ⟨h, hok⟩
  · simp [checkDec, h]
  · simp [checkDec, h, hok]

/-- Settles O19: each of the three commands is `CheckEnc` over its own work, and the check answers before
that work begins. -/
theorem encoderChannelCheck : Obligations.EncoderChannelCheck := by
  intro i s hop hlen
  obtain ⟨work, heq⟩ := effect_eq_checkEnc hop s s.dataIn
  exact ⟨fun err h => answeredLatched_of_effect hlen (heq.trans (checkEnc_failed h)),
    fun h => answeredBare_of_effect hlen (heq.trans (checkEnc_notOpen h))⟩

/-- Settles O20: each of the four commands is `CheckDec` over its own work, and the check answers before
that work begins. -/
theorem decoderChannelCheck : Obligations.DecoderChannelCheck := by
  intro i s hop hlen
  obtain ⟨work, heq⟩ := effect_eq_checkDec hop s s.dataIn
  exact ⟨fun err h => answeredLatched_of_effect hlen (heq.trans (checkDec_failed h)),
    fun h => answeredBare_of_effect hlen (heq.trans (checkDec_notAdmitted h))⟩

/-- R102 for a command without a payload: DREAD, DEOF or DFAIL. -/
theorem decoderErrors_of_bare {i : Instr} {s : State} {o : Op} (hop : i.op = o)
    (hmem : o ∈ [Op.dchunk, .dread, .deof, .dfail]) (hbare : o.carriesPayload = false)
    (hdata : s.dataIn = []) : DecoderErrors (decide (o ∈ [Op.dread, .dfail])) i s := by
  subst hop
  exact decoderChannelCheck i s hmem (dataIn_length_of_bare rfl hbare hdata)

/-! The commands shared by the three engines, on the channels that admit them. -/

section Bare

variable {i : Instr} {s : State}

/-- EOPEN on any channel (R104). -/
theorem exec_of_eopen (hop : i.op = .eopen) (hdata : s.dataIn = []) :
    ∃ t, exec i s = .next t ∧ Reports t (cmdIdOf i) .ok 0 0 0 0 ∧
      EncChanged s t i.engine { st := .opened, res := [], acc := 0, nbits := 0 } [] := by
  have heff : effect i s s.dataIn = openEnc i.engine s := by simp only [effect, hop]
  refine ⟨_, exec_eq_next.2 ⟨dataIn_length_of_bare hop rfl hdata, heff⟩, ?_, ?_⟩
  · rw [cmdIdOf, hop]
    exact State.finish_reports _ _ .ok 0 0 0 0
  · exact s.finish_encChanged _ _ _ .ok 0 0 0 0

/-- EFAIL on an OPEN channel (R106). -/
theorem exec_of_efail (hop : i.op = .efail) (hdata : s.dataIn = [])
    (hst : (s.enc.get i.engine).st = .opened) :
    ∃ t, exec i s = .next t ∧ Reports t (cmdIdOf i) .error 4 0 (i.len.setWidth 32) 0 ∧
      EncChanged s t i.engine
        { st := .failed { kind := .upstream, pos := 0, aux := i.len.setWidth 32 }
          res := [], acc := 0, nbits := 0 } [] := by
  have heff : effect i s s.dataIn = s.failEnc (cmdIdOf i) i.engine
      { kind := .upstream, pos := 0, aux := i.len.setWidth 32 } := by
    simp only [effect, cmdIdOf, hop]
    exact checkEnc_opened hst
  exact ⟨_, exec_eq_next.2 ⟨dataIn_length_of_bare hop rfl hdata, heff⟩,
    State.finish_reports _ _ .error 4 0 _ 0, s.finish_encChanged _ _ _ .error 4 0 _ 0⟩

/-- DOPEN on any channel (R107). -/
theorem exec_of_dopen (hop : i.op = .dopen) (hdata : s.dataIn = []) :
    ∃ t, exec i s = .next t ∧ Reports t (cmdIdOf i) .ok 0 0 0 0 ∧
      DecChanged s t i.engine { st := .opened, pend := [] } [] := by
  have heff : effect i s s.dataIn = openDec i.engine s := by simp only [effect, hop]
  refine ⟨_, exec_eq_next.2 ⟨dataIn_length_of_bare hop rfl hdata, heff⟩, ?_, ?_⟩
  · rw [cmdIdOf, hop]
    exact State.finish_reports _ _ .ok 0 0 0 0
  · exact s.finish_decChanged _ _ _ .ok 0 0 0 0

/-- DREAD where bytes are pending (R109). -/
theorem exec_of_dread (hop : i.op = .dread) (hdata : s.dataIn = [])
    (hst : (s.dec.get i.engine).st = .opened ∨ (s.dec.get i.engine).st = .eof)
    (hpend : (s.dec.get i.engine).pend ≠ []) :
    ∃ t, exec i s = .next t ∧
      Reports t (cmdIdOf i) .ok 0 0 0 (min i.len.toNat (s.dec.get i.engine).pend.length) ∧
      DecChanged s t i.engine
        { st := (s.dec.get i.engine).st, pend := (s.dec.get i.engine).pend.drop i.len.toNat }
        ((s.dec.get i.engine).pend.take i.len.toNat) := by
  have heff : effect i s s.dataIn =
      (s.setDec i.engine { s.dec.get i.engine with
        pend := (s.dec.get i.engine).pend.drop i.len.toNat }).deliver (cmdIdOf i)
          ((s.dec.get i.engine).pend.take i.len.toNat) := by
    simp only [effect, cmdIdOf, hop]
    exact (checkDec_admitted (by simpa using hst)).trans (if_pos hpend)
  refine ⟨_, exec_eq_next.2 ⟨dataIn_length_of_bare hop rfl hdata, heff⟩, ?_,
    s.deliver_decChanged _ _ _ _⟩
  rw [← List.length_take]
  exact State.finish_reports _ _ .ok 0 0 0 _

/-- DREAD at the end of the source with nothing pending (R109). -/
theorem answeredBare_of_dread_eof (hop : i.op = .dread) (hdata : s.dataIn = [])
    (hst : (s.dec.get i.engine).st = .eof) (hpend : (s.dec.get i.engine).pend = []) :
    AnsweredBare i s .endOfInput := by
  refine answeredBare_of_effect (dataIn_length_of_bare hop rfl hdata) ?_
  simp only [effect, cmdIdOf, hop]
  rw [readPending, checkDec_admitted (.inr ⟨hst, rfl⟩), if_neg (not_not.2 hpend), if_pos hst]

/-- DREAD before the end of the source with nothing pending (R109). -/
theorem answeredBare_of_dread_opened (hop : i.op = .dread) (hdata : s.dataIn = [])
    (hst : (s.dec.get i.engine).st = .opened) (hpend : (s.dec.get i.engine).pend = []) :
    AnsweredBare i s .needChunk := by
  refine answeredBare_of_effect (dataIn_length_of_bare hop rfl hdata) ?_
  simp only [effect, cmdIdOf, hop]
  rw [readPending, checkDec_admitted (.inl hst), if_neg (not_not.2 hpend), if_neg (by simp [hst])]

/-- DEOF on an OPEN channel (R110). -/
theorem exec_of_deof (hop : i.op = .deof) (hdata : s.dataIn = [])
    (hst : (s.dec.get i.engine).st = .opened) :
    ∃ t, exec i s = .next t ∧ Reports t (cmdIdOf i) .ok 0 0 0 0 ∧
      DecChanged s t i.engine { st := .eof, pend := (s.dec.get i.engine).pend } [] := by
  have heff : effect i s s.dataIn =
      (s.setDec i.engine { s.dec.get i.engine with st := .eof }).finishOk (cmdIdOf i) 0 := by
    simp only [effect, cmdIdOf, hop]
    exact checkDec_admitted (.inl hst)
  exact ⟨_, exec_eq_next.2 ⟨dataIn_length_of_bare hop rfl hdata, heff⟩,
    State.finish_reports _ _ .ok 0 0 0 0, s.finish_decChanged _ _ _ .ok 0 0 0 0⟩

/-- DFAIL on a channel that is OPEN or at EOF (R111). -/
theorem exec_of_dfail (hop : i.op = .dfail) (hdata : s.dataIn = [])
    (hst : (s.dec.get i.engine).st = .opened ∨ (s.dec.get i.engine).st = .eof) :
    ∃ t, exec i s = .next t ∧ Reports t (cmdIdOf i) .error 4 0 (i.len.setWidth 32) 0 ∧
      DecChanged s t i.engine
        { st := .failed { kind := .upstream, pos := 0, aux := i.len.setWidth 32 }, pend := [] } [] := by
  have heff : effect i s s.dataIn = s.failDec (cmdIdOf i) i.engine
      { kind := .upstream, pos := 0, aux := i.len.setWidth 32 } := by
    simp only [effect, cmdIdOf, hop]
    exact checkDec_admitted (by simpa using hst)
  exact ⟨_, exec_eq_next.2 ⟨dataIn_length_of_bare hop rfl hdata, heff⟩,
    State.finish_reports _ _ .error 4 0 _ 0, s.finish_decChanged _ _ _ .error 4 0 _ 0⟩

end Bare

/-- Settles O21: EOPEN has no channel check, so its effect is the fresh record in every state. -/
theorem eopenMakesAFreshInstance : Obligations.EopenMakesAFreshInstance := by
  refine ⟨fun i hi => ?_, by decide, fun s t h => ?_⟩
  · have hop : i.op = .eopen := by revert i; decide
    exact ⟨by rw [encode_toNat_op, hop]; rfl, fun s => exec_of_eopen hop⟩
  · have hdata : s.dataIn = [] := dataIn_eq_nil_of_exec rfl h
    obtain ⟨-, hch⟩ := of_exec_eq_next (exec_of_eopen (i := .b45Eopen) rfl hdata) h
    have hview : t.readRegister 0x20 = viewE45 (t.enc.get Instr.b45Eopen.engine) := rfl
    rw [hview, hch.channel]
    decide

/-- Settles O22: on an OPEN channel EFAIL takes its own error; elsewhere it is one of the commands of R101. -/
theorem efailLatchesTheSinkFailure : Obligations.EfailLatchesTheSinkFailure := by
  refine ⟨fun f i hi => ?_, by decide, fun s t hst h => ?_⟩
  · obtain ⟨hop, rfl⟩ : i.op = .efail ∧ i.len = f := by
      revert i; simp [Instr.op, Instr.len]
    refine ⟨by rw [encode_toNat_op, hop]; rfl, fun s hdata => ⟨fun hst => ?_, ?_⟩⟩
    · rw [BitVec.ofNat_toNat]
      exact exec_of_efail hop hdata hst
    · exact encoderChannelCheck i s (by simp [hop]) (dataIn_length_of_bare hop rfl hdata)
  · have hdata : s.dataIn = [] := dataIn_eq_nil_of_exec rfl h
    obtain ⟨hrep, hch⟩ := of_exec_eq_next (exec_of_efail (i := .b85Efail 5) rfl hdata hst) h
    have hview : t.readRegister 0x24 = viewE85 (t.enc.get (Instr.b85Efail 5).engine) := rfl
    rw [hrep.status_eq, hrep.errAux, hview, hch.channel]
    decide

/-- Settles O23: DOPEN has no channel check, so its effect is the fresh record in every state. -/
theorem dopenMakesAFreshInstance : Obligations.DopenMakesAFreshInstance := by
  refine ⟨fun i hi => ?_, by decide, fun s t h => ?_⟩
  · have hop : i.op = .dopen := by revert i; decide
    exact ⟨by rw [encode_toNat_op, hop]; rfl, fun s => exec_of_dopen hop⟩
  · have hdata : s.dataIn = [] := dataIn_eq_nil_of_exec rfl h
    obtain ⟨-, hch⟩ := of_exec_eq_next (exec_of_dopen (i := .b91Dopen) rfl hdata) h
    have hview : t.readRegister 0x38 = viewDec (t.dec.get Instr.b91Dopen.engine) := rfl
    rw [hview, hch.channel]
    decide

/-- Settles O24, one clause for each way the admitted DREAD can end; the states that do not admit it are
those of R102. -/
theorem dreadDeliversFromTheFront : Obligations.DreadDeliversFromTheFront := by
  refine ⟨fun n i hi => ?_, by decide, fun s t hst hpend h => ?_⟩
  · obtain ⟨hop, rfl⟩ : i.op = .dread ∧ i.len = n := by
      revert i; simp [Instr.op, Instr.len]
    refine ⟨by rw [encode_toNat_op, hop]; rfl, fun s hdata => ⟨exec_of_dread hop hdata,
      answeredBare_of_dread_eof hop hdata, answeredBare_of_dread_opened hop hdata,
      decoderErrors_of_bare hop (by decide) rfl hdata⟩⟩
  · have hdata : s.dataIn = [] := dataIn_eq_nil_of_exec rfl h
    have hpending : (s.dec.get .b45).pend ≠ [] := by simp [PerEngine.get, hpend]
    obtain ⟨-, hch⟩ := of_exec_eq_next (exec_of_dread (i := .b45Dread 1) rfl hdata (.inl hst) hpending) h
    have hrec : t.dec.get .b45 = { st := s.dec.b45.st, pend := s.dec.b45.pend.drop 1 } := hch.channel
    have hout : t.out = s.out ++ s.dec.b45.pend.take 1 := hch.out
    have hview : t.readRegister 0x30 = viewDec (t.dec.get .b45) := rfl
    rw [hout, hview, hrec, hst, hpend]
    exact ⟨rfl, by decide⟩

/-- Settles O25; the empty source is DOPEN, DEOF and DREAD, each by its own rule: the fresh record has
nothing pending, DEOF keeps that, and DREAD then gives END. -/
theorem deofEndsTheSource : Obligations.DeofEndsTheSource := by
  refine ⟨fun i hi => ?_, fun e s => ?_⟩
  · have hop : i.op = .deof := by revert i; decide
    exact ⟨by rw [encode_toNat_op, hop]; rfl, fun s hdata =>
      ⟨exec_of_deof hop hdata, decoderErrors_of_bare hop (by decide) rfl hdata⟩⟩
  · obtain ⟨t₁, hopen, -, hch₁⟩ := exec_of_dopen (i := (bareTransaction .dopen e 0).instr)
      (s := s.presenting (bareTransaction .dopen e 0)) (by simp) rfl
    have hrec₁ : t₁.dec.get e = { st := .opened, pend := [] } := by simpa using hch₁.channel
    obtain ⟨t₂, heof, -, hch₂⟩ := exec_of_deof (i := (bareTransaction .deof e 0).instr)
      (s := t₁.presenting (bareTransaction .deof e 0)) (by simp) rfl (by simp [hrec₁])
    have hrec₂ : t₂.dec.get e = { st := .eof, pend := [] } := by simpa [hrec₁] using hch₂.channel
    obtain ⟨t₃, hread, hrep, honly⟩ := answeredBare_of_dread_eof (i := (bareTransaction .dread e 16).instr)
      (s := t₂.presenting (bareTransaction .dread e 16)) (by simp) rfl (by simp [hrec₂]) (by simp [hrec₂])
    refine ⟨t₃, ?_, hrep.result, ?_⟩
    · rw [issueAll_cons_of_exec hopen, issueAll_cons_of_exec heof, issueAll_cons_of_exec hread, issueAll]
    · calc t₃.out = t₂.out := honly.out
        _ = t₁.out := by simpa using hch₂.out
        _ = s.out := by simpa using hch₁.out

/-- Settles O26: on a channel that is OPEN or at EOF, DFAIL takes its own error; elsewhere it is one of the
commands of R102. -/
theorem dfailLatchesTheSourceFailure : Obligations.DfailLatchesTheSourceFailure := by
  refine ⟨fun f i hi => ?_, by decide, fun s t hst h => ?_⟩
  · obtain ⟨hop, rfl⟩ : i.op = .dfail ∧ i.len = f := by
      revert i; simp [Instr.op, Instr.len]
    refine ⟨by rw [encode_toNat_op, hop]; rfl, fun s hdata => ⟨fun hst => ?_, ?_⟩⟩
    · rw [BitVec.ofNat_toNat]
      exact exec_of_dfail hop hdata hst
    · exact decoderErrors_of_bare hop (by decide) rfl hdata
  · have hdata : s.dataIn = [] := dataIn_eq_nil_of_exec rfl h
    obtain ⟨hrep, -⟩ := of_exec_eq_next (exec_of_dfail (i := .b91Dfail 0x10) rfl hdata (.inl hst)) h
    rw [hrep.status_eq, hrep.errAux]
    decide

end Sys2Proof.Machine
end

section
/-! PROOFS. The commands that carry a payload (30_encoding.md rule R72): ENC, DEC, EFEED and DCHUNK, and
ECLOSE with them. Each is treated once, for any `i` with its operation, so that an engine adds only the facts
about its own conversion. -/

namespace Sys2Proof.Machine

/-- The word of a command is its LEN above the byte of its engine and operation (R70). -/
theorem encode_eq_len_or {i : Instr} {low : Word} (e : Engine) (o : Op) (he : i.engine = e) (ho : i.op = o)
    (h : place e.code 0 ||| place o.code 4 = low) : encode i = i.len.setWidth 32 <<< 8 ||| low := by
  subst he ho h
  exact BitVec.or_comm _ _

/-- `Emit` and `Finish(OK)` append to OUT alone. -/
theorem State.deliver_onlyEmitted (s : State) (c : CmdId) (bytes : List Byte) :
    OnlyEmitted s (s.deliver c bytes) bytes :=
  ⟨rfl, rfl, rfl, rfl, rfl⟩

/-- A channel write and an `Emit`, ended by `Finish`, change that encoder channel and append to OUT. -/
theorem State.deliver_encChanged (s : State) (e : Engine) (ch : EncChannel) (c : CmdId)
    (bytes : List Byte) : EncChanged s ((s.setEnc e ch).deliver c bytes) e ch bytes where
  channel := by simp [State.deliver, State.finishOk]
  others _ hne := by simp [State.deliver, State.finishOk, PerEngine.get_set_of_ne _ _ hne]
  dec := rfl
  out := rfl
  consumed := ⟨rfl, rfl⟩

/-- What `Emit` and `Finish(OK)` report. -/
theorem State.deliver_reports (s : State) (c : CmdId) (bytes : List Byte) :
    Reports (s.deliver c bytes) c .ok 0 0 0 bytes.length :=
  (s.emit bytes).finish_reports c .ok 0 0 0 bytes.length

/-- With LEN bytes on the data-in port, a command that carries a payload is given what it requires. -/
theorem dataIn_length_of_payload {i : Instr} {s : State} {o : Op} (hop : i.op = o)
    (hpayload : o.carriesPayload = true) (hlen : s.dataIn.length = i.len.toNat) :
    s.dataIn.length = i.payloadBytes := by
  rw [hlen, Instr.payloadBytes, hop, if_pos hpayload]

section Payload

variable {i : Instr} {s : State}

/-- ENC (R151, R181, R216). -/
theorem exec_of_enc (hop : i.op = .enc) (hlen : s.dataIn.length = i.len.toNat) :
    ∃ t, exec i s = .next t ∧
      Reports t (cmdIdOf i) .ok 0 0 0 (encodeBy i.engine s.dataIn).length ∧
      OnlyEmitted s t (encodeBy i.engine s.dataIn) := by
  have heff : effect i s s.dataIn = s.deliver (cmdIdOf i) (encodeBy i.engine s.dataIn) := by
    simp only [effect, cmdIdOf, hop, encodeWhole]
  exact ⟨_, exec_eq_next.2 ⟨dataIn_length_of_payload hop rfl hlen, heff⟩, s.deliver_reports _ _,
    s.deliver_onlyEmitted _ _⟩

/-- DEC of a text that decodes (R152, R182, R217). -/
theorem exec_of_dec_ok {bytes : List Byte} (hop : i.op = .dec) (hlen : s.dataIn.length = i.len.toNat)
    (hdec : decodeBy i.engine s.dataIn = .ok bytes) :
    ∃ t, exec i s = .next t ∧ Reports t (cmdIdOf i) .ok 0 0 0 bytes.length ∧ OnlyEmitted s t bytes := by
  have heff : effect i s s.dataIn = s.deliver (cmdIdOf i) bytes := by
    simp only [effect, cmdIdOf, hop, hdec, decodeWhole]
  exact ⟨_, exec_eq_next.2 ⟨dataIn_length_of_payload hop rfl hlen, heff⟩, s.deliver_reports _ _,
    s.deliver_onlyEmitted _ _⟩

/-- DEC of a text that does not decode reports the error and emits nothing (R152, R182, R245). -/
theorem answeredLatched_of_dec_error {err : ErrorValue} (hop : i.op = .dec)
    (hlen : s.dataIn.length = i.len.toNat) (hdec : decodeBy i.engine s.dataIn = .error err) :
    AnsweredLatched i s err := by
  refine answeredLatched_of_effect (dataIn_length_of_payload hop rfl hlen) ?_
  simp only [effect, cmdIdOf, hop, hdec, decodeWhole]

/-- EFEED on an OPEN channel (R153, R183, R218). -/
theorem exec_of_efeed (hop : i.op = .efeed) (hlen : s.dataIn.length = i.len.toNat)
    (hst : (s.enc.get i.engine).st = .opened) :
    ∃ t, exec i s = .next t ∧
      Reports t (cmdIdOf i) .ok 0 0 0 (feedBy i.engine s.dataIn (s.enc.get i.engine)).2.length ∧
      EncChanged s t i.engine (feedBy i.engine s.dataIn (s.enc.get i.engine)).1
        (feedBy i.engine s.dataIn (s.enc.get i.engine)).2 := by
  have heff : effect i s s.dataIn =
      (s.setEnc i.engine (feedBy i.engine s.dataIn (s.enc.get i.engine)).1).deliver (cmdIdOf i)
        (feedBy i.engine s.dataIn (s.enc.get i.engine)).2 := by
    simp only [effect, cmdIdOf, hop]
    exact checkEnc_opened hst
  exact ⟨_, exec_eq_next.2 ⟨dataIn_length_of_payload hop rfl hlen, heff⟩, State.deliver_reports _ _ _,
    s.deliver_encChanged _ _ _ _⟩

/-- ECLOSE on an OPEN channel (R154, R184, R219, R105). -/
theorem exec_of_eclose (hop : i.op = .eclose) (hdata : s.dataIn = [])
    (hst : (s.enc.get i.engine).st = .opened) :
    ∃ t, exec i s = .next t ∧
      Reports t (cmdIdOf i) .ok 0 0 0 (flushBy i.engine (s.enc.get i.engine)).length ∧
      EncChanged s t i.engine { st := .closed, res := [], acc := 0, nbits := 0 }
        (flushBy i.engine (s.enc.get i.engine)) := by
  have heff : effect i s s.dataIn =
      (s.setEnc i.engine .closedRecord).deliver (cmdIdOf i)
        (flushBy i.engine (s.enc.get i.engine)) := by
    simp only [effect, cmdIdOf, hop]
    exact checkEnc_opened hst
  exact ⟨_, exec_eq_next.2 ⟨dataIn_length_of_bare hop rfl hdata, heff⟩, State.deliver_reports _ _ _,
    s.deliver_encChanged _ _ _ _⟩

/-- DCHUNK of a text that decodes, on an OPEN channel with nothing pending (R155, R185, R220, R108). -/
theorem exec_of_dchunk_ok {bytes : List Byte} (hop : i.op = .dchunk)
    (hlen : s.dataIn.length = i.len.toNat) (hst : (s.dec.get i.engine).st = .opened)
    (hpend : (s.dec.get i.engine).pend = []) (hdec : decodeBy i.engine s.dataIn = .ok bytes) :
    ∃ t, exec i s = .next t ∧ Reports t (cmdIdOf i) .ok 0 0 0 bytes.length ∧
      DecChanged s t i.engine { st := .opened, pend := bytes } [] := by
  have heff : effect i s s.dataIn =
      (s.setDec i.engine { st := .opened, pend := bytes }).finishOk (cmdIdOf i) bytes.length := by
    simp only [effect, cmdIdOf, hop, hdec]
    rw [chunkChannel, checkDec_admitted (.inl hst), if_neg (not_not.2 hpend), ← hst]
  exact ⟨_, exec_eq_next.2 ⟨dataIn_length_of_payload hop rfl hlen, heff⟩,
    State.finish_reports _ _ .ok 0 0 0 _, s.finish_decChanged _ _ _ .ok 0 0 0 _⟩

/-- DCHUNK of a text that does not decode latches the error (R155, R185, R108). -/
theorem exec_of_dchunk_error {err : ErrorValue} (hop : i.op = .dchunk)
    (hlen : s.dataIn.length = i.len.toNat) (hst : (s.dec.get i.engine).st = .opened)
    (hpend : (s.dec.get i.engine).pend = []) (hdec : decodeBy i.engine s.dataIn = .error err) :
    ∃ t, exec i s = .next t ∧ Reports t (cmdIdOf i) .error err.kind.code err.pos err.aux 0 ∧
      DecChanged s t i.engine { st := .failed err, pend := [] } [] := by
  have heff : effect i s s.dataIn = s.failDec (cmdIdOf i) i.engine err := by
    simp only [effect, cmdIdOf, hop, hdec]
    rw [chunkChannel, checkDec_admitted (.inl hst), if_neg (not_not.2 hpend)]
  exact ⟨_, exec_eq_next.2 ⟨dataIn_length_of_payload hop rfl hlen, heff⟩,
    State.finish_reports _ _ .error _ _ _ 0, s.finish_decChanged _ _ _ .error _ _ _ 0⟩

/-- DCHUNK while bytes are pending (R108). -/
theorem answeredBare_of_dchunk_pending (hop : i.op = .dchunk) (hlen : s.dataIn.length = i.len.toNat)
    (hst : (s.dec.get i.engine).st = .opened) (hpend : (s.dec.get i.engine).pend ≠ []) :
    AnsweredBare i s .state := by
  refine answeredBare_of_effect (dataIn_length_of_payload hop rfl hlen) ?_
  simp only [effect, cmdIdOf, hop]
  rw [chunkChannel, checkDec_admitted (.inl hst), if_pos hpend]

/-- R101 for EFEED. -/
theorem encoderErrors_of_efeed (hop : i.op = .efeed) (hlen : s.dataIn.length = i.len.toNat) :
    EncoderErrors i s :=
  encoderChannelCheck i s (by simp [hop]) (dataIn_length_of_payload hop rfl hlen)

/-- R101 for ECLOSE. -/
theorem encoderErrors_of_eclose (hop : i.op = .eclose) (hdata : s.dataIn = []) : EncoderErrors i s :=
  encoderChannelCheck i s (by simp [hop]) (dataIn_length_of_bare hop rfl hdata)

/-- R102 for DCHUNK. -/
theorem decoderErrors_of_dchunk (hop : i.op = .dchunk) (hlen : s.dataIn.length = i.len.toNat) :
    DecoderErrors false i s := by
  have h := decoderChannelCheck i s (by simp [hop]) (dataIn_length_of_payload hop rfl hlen)
  simpa [hop] using h

end Payload

end Sys2Proof.Machine
end

section
/-! PROOFS. The base-45 conversions (41_base45.md rules R141 to R148): the encoder's loop over a split of its
input, and what the decoder answers to every text, Base45DecodeErrorPrecedence. -/

namespace Sys2Proof.Machine

/-! The encoder's loop (R144). -/

/-- Encoding two parts is encoding the first, then the second behind the first one's residual. -/
theorem encodePairs45_append (l m : List Byte) :
    encodePairs45 (l ++ m) =
      ((encodePairs45 ((encodePairs45 l).1 ++ m)).1,
        (encodePairs45 l).2 ++ (encodePairs45 ((encodePairs45 l).1 ++ m)).2) := by
  induction l using encodePairs45.induct with
  | case1 b0 b1 rest ih => simp [encodePairs45, ih]
  | case2 b0 => simp [encodePairs45]
  | case3 => simp [encodePairs45]

/-- The residual is one byte exactly where the length is odd. -/
theorem encodePairs45_residual_length (l : List Byte) : (encodePairs45 l).1.length = l.length % 2 := by
  induction l using encodePairs45.induct with
  | case1 b0 b1 rest ih => simp [encodePairs45, ih, Nat.add_assoc]
  | case2 b0 => rfl
  | case3 => rfl

/-- `ENC45` of whole pairs and one more byte ends with the two characters of that byte (R143, R146). -/
theorem enc45_append_single {front : List Byte} (b : Byte) (h : front.length % 2 = 0) :
    enc45 (front ++ [b]) = enc45 front ++ enc45Single b := by
  have hres : (encodePairs45 front).1 = [] := by
    rw [← List.length_eq_zero_iff, encodePairs45_residual_length, h]
  simp [enc45, feed45, encodePairs45_append front, hres, encodePairs45, close45]

/-! The characters of a text (R141, R147). -/

theorem val45_of_mem {c : Byte} (h : c ∈ alph45) : val45 c = some (alph45.idxOf c) := by
  rw [List.idxOf_eq_getD_idxOf?]
  obtain ⟨v, hv⟩ := Option.ne_none_iff_exists'.1 fun hnone => List.idxOf?_eq_none_iff.1 hnone h
  rw [val45, valueOf?, hv, Option.getD_some]

theorem val45_of_notMem {c : Byte} (h : c ∉ alph45) : val45 c = none :=
  List.idxOf?_eq_none_iff.2 h

/-- A text in the alphabet has the values of its characters. -/
theorem values45_of_legal {t : List Byte} (h : ∀ c ∈ t, c ∈ alph45) (p : Nat) :
    values45 p t = .ok (t.map alph45.idxOf) := by
  induction t generalizing p with
  | nil => rfl
  | cons c rest ih =>
    obtain ⟨hc, hrest⟩ := List.forall_mem_cons.1 h
    simp [values45, val45_of_mem hc, ih hrest, Except.map]

/-- The first character outside the alphabet is reported, with its position. -/
theorem values45_of_illegal {t : List Byte} {q : Nat} {c : Byte} (hget : t[q]? = some c)
    (hc : c ∉ alph45) (hmin : ∀ q' d, q' < q → t[q']? = some d → d ∈ alph45) (p : Nat) :
    values45 p t = .error (.of .illegalChar (p + q) c.toNat) := by
  induction t generalizing p q with
  | nil => simp at hget
  | cons d rest ih =>
    cases q with
    | zero =>
      obtain rfl : d = c := by simpa using hget
      simp [values45, val45_of_notMem hc]
    | succ q =>
      have hd : d ∈ alph45 := hmin 0 d q.succ_pos rfl
      have hrest := ih (q := q) (by simpa using hget)
        (fun q' d' hlt hget' => hmin (q' + 1) d' (by omega) (by simpa using hget')) (p + 1)
      simp [values45, val45_of_mem hd, hrest, Except.map, Nat.add_assoc, Nat.add_comm 1 q]

/-! The groups of a text (R147). -/

theorem groupNumber45_three (c0 c1 c2 : Byte) :
    groupNumber45 [c0, c1, c2] =
      alph45.idxOf c0 + alph45.idxOf c1 * 45 + alph45.idxOf c2 * 2025 := by
  simp only [groupNumber45]
  omega

theorem groupNumber45_two (c0 c1 : Byte) :
    groupNumber45 [c0, c1] = alph45.idxOf c0 + alph45.idxOf c1 * 45 := by
  simp only [groupNumber45]
  omega

theorem not_overflows45_nil (g : Nat) : ¬ overflows45 [] g := by
  simp [overflows45, group45]

/-- The one group of a text of two characters. -/
theorem overflows45_two {c0 c1 : Byte} {g : Nat} :
    overflows45 [c0, c1] g ↔ g = 0 ∧ groupNumber45 [c0, c1] > 255 := by
  cases g with
  | zero => simp [overflows45, group45]
  | succ g => simp [overflows45, group45, Nat.mul_succ]

/-- The first group of a text with a full one. -/
theorem overflows45_full_zero {c0 c1 c2 : Byte} {rest : List Byte} :
    overflows45 (c0 :: c1 :: c2 :: rest) 0 ↔ groupNumber45 [c0, c1, c2] > 65535 := by
  simp [overflows45, group45]

/-- The other groups of such a text are those of its rest. -/
theorem overflows45_full_succ {c0 c1 c2 : Byte} {rest : List Byte} {g : Nat} :
    overflows45 (c0 :: c1 :: c2 :: rest) (g + 1) ↔ overflows45 rest g := by
  simp [overflows45, group45, Nat.mul_succ]

/-- The decoder's loop on a full group. -/
theorem decodeGroups45_full (k : Nat) (c0 c1 c2 : Byte) (rest : List Byte) :
    decodeGroups45 k ((c0 :: c1 :: c2 :: rest).map alph45.idxOf) =
      if groupNumber45 [c0, c1, c2] > 65535 then .error (.of .corrupt k 0)
      else (decodeGroups45 (k + 1) (rest.map alph45.idxOf)).map
        ([BitVec.ofNat 8 (groupNumber45 [c0, c1, c2] / 256),
          BitVec.ofNat 8 (groupNumber45 [c0, c1, c2] % 256)] ++ ·) := by
  rw [groupNumber45_three]
  rfl

/-- The decoder's loop on the short group at the end. -/
theorem decodeGroups45_two (k : Nat) (c0 c1 : Byte) :
    decodeGroups45 k ([c0, c1].map alph45.idxOf) =
      if groupNumber45 [c0, c1] > 255 then .error (.of .corrupt k 0)
      else .ok [BitVec.ofNat 8 (groupNumber45 [c0, c1])] := by
  rw [groupNumber45_two]
  rfl

/-- The loop reports the first group above its range. -/
theorem decodeGroups45_of_overflow : ∀ (t : List Byte) (k g : Nat), t.length % 3 ≠ 1 → overflows45 t g →
    (∀ h, h < g → ¬ overflows45 t h) →
    decodeGroups45 k (t.map alph45.idxOf) = .error (.of .corrupt (k + g) 0)
  | [], _, g, _, hover, _ => absurd hover (not_overflows45_nil g)
  | [_], _, _, hlen, _, _ => absurd rfl hlen
  | [c0, c1], k, g, _, hover, _ => by
    obtain ⟨rfl, hnum⟩ := overflows45_two.1 hover
    rw [decodeGroups45_two, if_pos hnum, Nat.add_zero]
  | c0 :: c1 :: c2 :: rest, k, 0, _, hover, _ => by
    rw [decodeGroups45_full, if_pos (overflows45_full_zero.1 hover), Nat.add_zero]
  | c0 :: c1 :: c2 :: rest, k, g + 1, hlen, hover, hmin => by
    have hfirst : ¬ groupNumber45 [c0, c1, c2] > 65535 :=
      mt overflows45_full_zero.2 (hmin 0 g.succ_pos)
    have hrest := decodeGroups45_of_overflow rest (k + 1) g (by simpa [Nat.add_assoc] using hlen)
      (overflows45_full_succ.1 hover) fun h hlt => mt overflows45_full_succ.2 (hmin (h + 1) (by omega))
    rw [decodeGroups45_full, if_neg hfirst, hrest, Nat.add_assoc, Nat.add_comm 1 g]
    rfl

/-- With no group above its range the loop succeeds. -/
theorem decodeGroups45_of_no_overflow : ∀ (t : List Byte) (k : Nat), t.length % 3 ≠ 1 →
    (∀ g, ¬ overflows45 t g) → ∃ bytes, decodeGroups45 k (t.map alph45.idxOf) = .ok bytes
  | [], _, _, _ => ⟨_, rfl⟩
  | [_], _, hlen, _ => absurd rfl hlen
  | [c0, c1], k, _, hno =>
    ⟨_, by rw [decodeGroups45_two, if_neg fun hnum => hno 0 (overflows45_two.2 ⟨rfl, hnum⟩)]⟩
  | c0 :: c1 :: c2 :: rest, k, hlen, hno => by
    obtain ⟨bytes, hrest⟩ := decodeGroups45_of_no_overflow rest (k + 1) (by simpa [Nat.add_assoc] using hlen)
      fun g => mt overflows45_full_succ.2 (hno (g + 1))
    rw [decodeGroups45_full, if_neg (mt overflows45_full_zero.2 (hno 0)), hrest]
    exact ⟨_, rfl⟩

/-! `DEC45` of a text (R147, R148): one rule for each answer, and no text escapes them. -/

section Dec45

variable {t : List Byte}

theorem dec45_of_length (hlen : t.length % 3 = 1) :
    dec45 t = .error (.of .invalidLength t.length 1) := by
  simp [dec45, hlen]

theorem dec45_of_illegal {p : Nat} {c : Byte} (hlen : t.length % 3 ≠ 1) (hget : t[p]? = some c)
    (hc : c ∉ alph45) (hmin : ∀ q d, q < p → t[q]? = some d → d ∈ alph45) :
    dec45 t = .error (.of .illegalChar p c.toNat) := by
  simp [dec45, hlen, values45_of_illegal hget hc hmin]

/-- A text in the alphabet, of a length the first check accepts, is decoded group by group. -/
theorem dec45_of_legal (hlen : t.length % 3 ≠ 1) (hlegal : ∀ c ∈ t, c ∈ alph45) :
    dec45 t = decodeGroups45 0 (t.map alph45.idxOf) := by
  simp [dec45, hlen, values45_of_legal hlegal]

theorem dec45_of_overflow {g : Nat} (hlen : t.length % 3 ≠ 1) (hlegal : ∀ c ∈ t, c ∈ alph45)
    (hover : overflows45 t g) (hmin : ∀ h, h < g → ¬ overflows45 t h) :
    dec45 t = .error (.of .corrupt g 0) := by
  rw [dec45_of_legal hlen hlegal, decodeGroups45_of_overflow t 0 g hlen hover hmin, Nat.zero_add]

theorem dec45_of_no_overflow (hlen : t.length % 3 ≠ 1) (hlegal : ∀ c ∈ t, c ∈ alph45)
    (hno : ∀ g, ¬ overflows45 t g) : ∃ bytes, dec45 t = .ok bytes := by
  rw [dec45_of_legal hlen hlegal]
  exact decodeGroups45_of_no_overflow t 0 hlen hno

/-- A text not wholly in the alphabet has a first character outside it. -/
theorem exists_first_illegal (h : ¬ ∀ c ∈ t, c ∈ alph45) :
    ∃ (p : Nat) (c : Byte), t[p]? = some c ∧ c ∉ alph45 ∧
      ∀ q d, q < p → t[q]? = some d → d ∈ alph45 := by
  classical
  have hex : ∃ (p : Nat) (c : Byte), t[p]? = some c ∧ c ∉ alph45 := by
    push Not at h
    obtain ⟨c, hmem, hc⟩ := h
    obtain ⟨p, hget⟩ := List.mem_iff_getElem?.1 hmem
    exact ⟨p, c, hget, hc⟩
  obtain ⟨p, ⟨c, hget, hc⟩, hmin⟩ := Nat.findX hex
  exact ⟨p, c, hget, hc, fun q d hlt hd => not_not.1 fun hnot => hmin q hlt ⟨d, hd, hnot⟩⟩

/-- A text with a group above its range has a first one. -/
theorem exists_first_overflow (h : ∃ g, overflows45 t g) :
    ∃ g, overflows45 t g ∧ ∀ g', g' < g → ¬ overflows45 t g' := by
  classical
  obtain ⟨g, hover, hmin⟩ := Nat.findX h
  exact ⟨g, hover, hmin⟩

/-- Everything `DEC45` can answer, with what the text then is. -/
theorem dec45_cases (t : List Byte) :
    (t.length % 3 = 1 ∧ dec45 t = .error (.of .invalidLength t.length 1)) ∨
    (∃ p, ∃ c ∈ t, c ∉ alph45 ∧ dec45 t = .error (.of .illegalChar p c.toNat)) ∨
    (∃ g, overflows45 t g ∧ dec45 t = .error (.of .corrupt g 0)) ∨
    ∃ bytes, dec45 t = .ok bytes := by
  by_cases hlen : t.length % 3 = 1
  · exact .inl ⟨hlen, dec45_of_length hlen⟩
  by_cases hlegal : ∀ c ∈ t, c ∈ alph45
  · by_cases hover : ∃ g, overflows45 t g
    · obtain ⟨g, hg, hmin⟩ := exists_first_overflow hover
      exact .inr (.inr (.inl ⟨g, hg, dec45_of_overflow hlen hlegal hg hmin⟩))
    · exact .inr (.inr (.inr (dec45_of_no_overflow hlen hlegal (not_exists.1 hover))))
  · obtain ⟨p, c, hget, hc, hmin⟩ := exists_first_illegal hlegal
    exact .inr (.inl ⟨p, c, List.mem_of_getElem? hget, hc, dec45_of_illegal hlen hget hc hmin⟩)

/-- The condition behind each error kind of `DEC45` (R152). -/
theorem dec45_error_kind {err : ErrorValue} (h : dec45 t = .error err) :
    (err.kind = .invalidLength ∧ t.length % 3 = 1) ∨
    (err.kind = .illegalChar ∧ ∃ c ∈ t, c ∉ alph45) ∨
    (err.kind = .corrupt ∧ ∃ g, overflows45 t g) := by
  obtain ⟨hlen, heq⟩ | ⟨p, c, hmem, hc, heq⟩ | ⟨g, hover, heq⟩ | ⟨bytes, heq⟩ := dec45_cases t
  · obtain rfl := Except.error.inj (heq.symm.trans h)
    exact .inl ⟨rfl, hlen⟩
  · obtain rfl := Except.error.inj (heq.symm.trans h)
    exact .inr (.inl ⟨rfl, c, hmem, hc⟩)
  · obtain rfl := Except.error.inj (heq.symm.trans h)
    exact .inr (.inr ⟨rfl, g, hover⟩)
  · cases heq.symm.trans h

end Dec45

/-- Settles O50: the length check, the scan of the characters and the loop over the groups come in this order,
and each reports the first fault it meets. -/
theorem base45DecodeErrorPrecedence : Obligations.Base45DecodeErrorPrecedence :=
  ⟨fun _ => dec45_of_length, fun _ _ _ => dec45_of_illegal, fun _ _ => dec45_of_overflow,
    fun _ => dec45_of_no_overflow, rfl⟩

end Sys2Proof.Machine
end

section
/-! PROOFS. The commands of the base-45 engine (41_base45.md rules R151 to R155): the rule of the operation at
the engine's own conversion, with that conversion's corner cases (B45EncEmitsTheEncoding,
B45DecEmitsTheDecoding, B45EfeedEmitsWholeGroups, B45EcloseFlushesAndCloses, B45DchunkFillsThePendingBuffer). -/

namespace Sys2Proof.Machine

/-- Settles O27: ENC at the base-45 encoding, whose loop ends an odd payload with a single byte. -/
theorem b45EncEmitsTheEncoding : Obligations.B45EncEmitsTheEncoding := by
  refine ⟨fun len s => ⟨?_, ?_⟩, rfl, fun front b heven => ?_, by decide, by decide⟩
  · exact encode_eq_len_or .b45 .enc rfl rfl (by decide)
  · exact exec_of_enc (i := .b45Enc len) rfl
  · exact ⟨enc45_append_single b heven, rfl⟩

/-- Settles O28: DEC at the base-45 decoding, whose errors are those of `dec45_error_kind`. -/
theorem b45DecEmitsTheDecoding : Obligations.B45DecEmitsTheDecoding := by
  refine ⟨fun len s => ⟨?_, fun hlen => ⟨fun bytes => ?_, fun err => ?_⟩⟩, rfl,
    fun _ _ => dec45_error_kind, by decide, by decide, by decide, fun s t hdata h => ?_⟩
  · exact encode_eq_len_or .b45 .dec rfl rfl (by decide)
  · exact exec_of_dec_ok (i := .b45Dec len) rfl hlen
  · exact answeredLatched_of_dec_error (i := .b45Dec len) rfl hlen
  · have hdec : dec45 s.dataIn = .error (.of .invalidLength 4 1) := by rw [hdata]; rfl
    have hanswer : AnsweredLatched (.b45Dec 4) s (.of .invalidLength 4 1) :=
      answeredLatched_of_dec_error rfl (by rw [hdata]; rfl) hdec
    obtain ⟨hrep, -⟩ := of_exec_eq_next hanswer h
    rw [hrep.status_eq, hrep.errPos, hrep.errAux]
    decide

/-- Settles O29: EFEED at the base-45 feed, which leaves the state and the base-91 fields of the record. -/
theorem b45EfeedEmitsWholeGroups : Obligations.B45EfeedEmitsWholeGroups := by
  refine ⟨fun len s => ⟨?_, fun hlen => ⟨fun hst => ?_, encoderErrors_of_efeed rfl hlen⟩⟩,
    fun res hres => ?_, fun b => rfl, fun b0 b1 => ⟨?_, rfl⟩, by decide, by decide, by decide, by decide⟩
  · exact encode_eq_len_or .b45 .efeed rfl rfl (by decide)
  · rw [← hst]
    exact exec_of_efeed (i := .b45Efeed len) rfl hlen hst
  · match res, hres with
    | [], _ => rfl
    | [_], _ => rfl
  · simp [feed45, encodePairs45]

/-- Settles O30: ECLOSE at the base-45 flush of the residual byte. -/
theorem b45EcloseFlushesAndCloses : Obligations.B45EcloseFlushesAndCloses := by
  refine ⟨by decide, fun s hdata => ⟨?_, ?_⟩, rfl, fun b => ⟨rfl, rfl⟩, by decide, by decide⟩
  · exact exec_of_eclose (i := .b45Eclose) rfl hdata
  · exact encoderErrors_of_eclose rfl hdata

/-- Settles O31: DCHUNK at the base-45 decoding on an OPEN channel with nothing pending, then while bytes are
pending, then in the states of R102. -/
theorem b45DchunkFillsThePendingBuffer : Obligations.B45DchunkFillsThePendingBuffer := by
  refine ⟨fun len s => ⟨?_, fun hlen => ⟨fun hst hpend => ⟨fun bytes => ?_, fun err => ?_⟩, ?_, ?_⟩⟩,
    fun text => dec45_of_length, by decide, by decide, by decide⟩
  · exact encode_eq_len_or .b45 .dchunk rfl rfl (by decide)
  · exact exec_of_dchunk_ok (i := .b45Dchunk len) rfl hlen hst hpend
  · exact exec_of_dchunk_error (i := .b45Dchunk len) rfl hlen hst hpend
  · exact answeredBare_of_dchunk_pending (i := .b45Dchunk len) rfl hlen
  · exact decoderErrors_of_dchunk rfl hlen

end Sys2Proof.Machine
end

section
/-! PROOFS. The base-85 conversions (42_base85.md rules R171 to R179): the encoder's loop over a split of its
input, and what the decoder answers to every text, Base85DecodeErrorPrecedence. The decoder's rules rest on
one invariant: behind a text without a scan error, the scan holds that text's open group and its count of
closed groups. -/

namespace Sys2Proof.Machine

/-! The encoder's loop and flush (R173 to R176). -/

/-- Fewer than four bytes are all residual. -/
theorem encodeGroups85_of_short {l : List Byte} (h : l.length < 4) : encodeGroups85 l = (l, []) := by
  match l, h with
  | [], _ => rfl
  | [_], _ => rfl
  | [_, _], _ => rfl
  | [_, _, _], _ => rfl

/-- Encoding two parts is encoding the first, then the second behind the first one's residual. -/
theorem encodeGroups85_append (l m : List Byte) :
    encodeGroups85 (l ++ m) =
      ((encodeGroups85 ((encodeGroups85 l).1 ++ m)).1,
        (encodeGroups85 l).2 ++ (encodeGroups85 ((encodeGroups85 l).1 ++ m)).2) := by
  induction l using encodeGroups85.induct with
  | case1 b0 b1 b2 b3 rest ih => simp [encodeGroups85, ih]
  | case2 short hshort => simp [encodeGroups85]

/-- The residual is what the length leaves over whole groups. -/
theorem encodeGroups85_residual_length (l : List Byte) : (encodeGroups85 l).1.length = l.length % 4 := by
  match l with
  | b0 :: b1 :: b2 :: b3 :: rest =>
    have ih := encodeGroups85_residual_length rest
    simp [encodeGroups85, ih, Nat.add_assoc]
  | [] => rfl
  | [_] => rfl
  | [_, _] => rfl
  | [_, _, _] => rfl

/-- Behind whole groups, the rest of the bytes is encoded as on its own. -/
theorem enc85_append {front : List Byte} (h : front.length % 4 = 0) (rest : List Byte) :
    enc85 (front ++ rest) = enc85 front ++ enc85 rest := by
  have hres : (encodeGroups85 front).1 = [] := by
    rw [← List.length_eq_zero_iff, encodeGroups85_residual_length, h]
  have hflush : close85 [] = [] := rfl
  simp [enc85, feed85, encodeGroups85_append front, hres, hflush]

/-- `ENC85` of one full group. -/
theorem enc85_group (b0 b1 b2 b3 : Byte) : enc85 [b0, b1, b2, b3] = enc85Group b0 b1 b2 b3 := by
  simp [enc85, feed85, encodeGroups85, close85]

/-- A nonempty residual is flushed as a partial group. -/
theorem close85_of_ne_nil {res : List Byte} (h : res ≠ []) : close85 res = enc85Partial res :=
  if_neg h

/-- `ENC85` of a partial group alone. -/
theorem enc85_partial {g : List Byte} (hpos : 1 ≤ g.length) (hlt : g.length ≤ 3) :
    enc85 g = enc85Partial g := by
  have hne : g ≠ [] := List.ne_nil_of_length_pos hpos
  simp [enc85, feed85, encodeGroups85_of_short (Nat.lt_succ_of_le hlt), close85_of_ne_nil hne]

/-- A partial group gives one character more than its bytes. -/
theorem enc85Partial_length {g : List Byte} (h : g.length ≤ 4) :
    (enc85Partial g).length = g.length + 1 := by
  simpa [enc85Partial, fiveChars85] using h

/-- A partial group of zero bytes is spelt with `!`. -/
theorem enc85Partial_replicate_zero {k : Nat} (hpos : 1 ≤ k) (hle : k ≤ 3) :
    enc85Partial (List.replicate k 0) = List.replicate (k + 1) 0x21 := by
  interval_cases k <;> decide

/-! Characters and the number of a group (R171, R177). -/

/-- The value of a character that is one of the 85. -/
def digit85 (c : Byte) : Nat :=
  c.toNat - 0x21

theorem val85_of_digit {c : Byte} (h : isDigit85 c) : val85 c = .digit (digit85 c) :=
  if_pos h

theorem val85_shorthand : val85 shorthand85 = .shorthand := by decide

theorem val85_of_invalid {c : Byte} (hdigit : ¬ isDigit85 c) (hz : c ≠ shorthand85) :
    val85 c = .invalid :=
  (if_neg hdigit).trans (if_neg hz)

theorem isDigit85.ne_shorthand {c : Byte} (h : isDigit85 c) : c ≠ shorthand85 := by
  rintro rfl
  exact absurd h.2 (by decide)

/-- The decoder's group value is the number of the characters. -/
theorem groupValue85_map {chars : List Byte} (h : chars.length = 5) :
    groupValue85 (chars.map digit85) = groupNumber85 chars := by
  match chars, h with
  | [c0, c1, c2, c3, c4], _ =>
    simp only [List.map_cons, List.map_nil, groupValue85, groupNumber85, List.foldl_cons, List.foldl_nil,
      digit85]
    omega

/-- A group of five characters, full or padded, gives its four bytes or CORRUPT. -/
theorem decodeGroup85_map {chars : List Byte} (h : chars.length = 5) (g : Nat) :
    decodeGroup85 g (chars.map digit85) =
      if groupNumber85 chars > 2 ^ 32 - 1 then .error (.of .corrupt g 0)
      else .ok (bytesOf32 (groupNumber85 chars)) := by
  rw [decodeGroup85, groupValue85_map h]

/-- The four bytes of a number in range, read big-endian, are the number. -/
theorem bigEndianNumber_bytesOf32 {n : Nat} (h : n ≤ 2 ^ 32 - 1) : bigEndianNumber (bytesOf32 n) = n := by
  simp only [bigEndianNumber, bytesOf32, List.foldl_cons, List.foldl_nil, BitVec.toNat_ofNat,
    Nat.shiftRight_eq_div_pow]
  omega

/-! The end of the text (R178). -/

theorem final85_of_one {grp : List Nat} (h : grp.length = 1) (len g : Nat) :
    final85 len g grp = .error (.of .invalidLength len 1) := by
  simp [final85, h]

/-- An open group of at least two characters is padded with `u`. -/
theorem final85_map {chars : List Byte} (h2 : 2 ≤ chars.length) (h5 : chars.length ≤ 5) (len g : Nat) :
    final85 len g (chars.map digit85) =
      if groupNumber85 (chars ++ List.replicate (5 - chars.length) 0x75) > 2 ^ 32 - 1 then
        .error (.of .corrupt g 0)
      else
        .ok ((bytesOf32 (groupNumber85 (chars ++ List.replicate (5 - chars.length) 0x75))).take
          (chars.length - 1)) := by
  have hpad : chars.map digit85 ++ List.replicate (5 - chars.length) 84 =
      (chars ++ List.replicate (5 - chars.length) 0x75).map digit85 := by
    rw [List.map_append, List.map_replicate]
    rfl
  have hlen : (chars ++ List.replicate (5 - chars.length) (0x75 : Byte)).length = 5 := by
    rw [List.length_append, List.length_replicate]
    omega
  rw [final85, List.length_map, if_neg (by omega), if_neg (by omega), hpad, decodeGroup85_map hlen]
  split <;> rfl

/-! One character of the scan (R177). -/

section Scan

variable {p g : Nat} {rest : List Byte} {c : Byte}

theorem scan85_shorthand :
    scan85 p g [] (shorthand85 :: rest) =
      (scan85 (p + 1) (g + 1) [] rest).map ([0, 0, 0, 0] ++ ·) := by
  simp [scan85, val85_shorthand]

theorem scan85_shorthand_inside {grp : List Nat} (h : grp ≠ []) :
    scan85 p g grp (shorthand85 :: rest) = .error (.of .illegalChar p 0x7A) := by
  simp [scan85, val85_shorthand, h]

theorem scan85_invalid {grp : List Nat} (hdigit : ¬ isDigit85 c) (hz : c ≠ shorthand85) :
    scan85 p g grp (c :: rest) = .error (.of .illegalChar p c.toNat) := by
  simp [scan85, val85_of_invalid hdigit hz]

/-- A character that does not close its group joins it. -/
theorem scan85_digit {chars : List Byte} (hc : isDigit85 c) (hlen : chars.length < 4) :
    scan85 p g (chars.map digit85) (c :: rest) =
      scan85 (p + 1) g ((chars ++ [c]).map digit85) rest := by
  simp [scan85, val85_of_digit hc, hlen.ne]

/-- The fifth character closes its group. -/
theorem scan85_fifth {chars : List Byte} (hc : isDigit85 c) (hlen : chars.length = 4) :
    scan85 p g (chars.map digit85) (c :: rest) =
      if groupNumber85 (chars ++ [c]) > 2 ^ 32 - 1 then .error (.of .corrupt g 0)
      else (scan85 (p + 1) (g + 1) [] rest).map (bytesOf32 (groupNumber85 (chars ++ [c])) ++ ·) := by
  have hfive : (chars ++ [c]).length = 5 := by simp [hlen]
  have hgroup : chars.map digit85 ++ [digit85 c] = (chars ++ [c]).map digit85 := by simp
  rw [scan85, val85_of_digit hc]
  dsimp only
  rw [if_pos (by simp [hlen]), hgroup, decodeGroup85_map hfive]
  by_cases hbig : groupNumber85 (chars ++ [c]) > 2 ^ 32 - 1
  · rw [if_pos hbig, if_pos hbig]
  · rw [if_neg hbig, if_neg hbig]

end Scan

/-- Digits that leave their group open are all collected in it. -/
theorem scan85_digits {more : List Byte} (hmore : ∀ c ∈ more, isDigit85 c) (p g : Nat)
    (rest : List Byte) : ∀ chars : List Byte, chars.length + more.length ≤ 4 →
      scan85 p g (chars.map digit85) (more ++ rest) =
        scan85 (p + more.length) g ((chars ++ more).map digit85) rest := by
  induction more generalizing p with
  | nil => simp
  | cons c more ih =>
    intro chars hlen
    obtain ⟨hc, hmore⟩ := List.forall_mem_cons.1 hmore
    rw [List.length_cons] at hlen
    rw [List.cons_append, scan85_digit hc (by omega), ih hmore (p + 1) (chars ++ [c]) (by simp; omega)]
    simp [Nat.add_assoc, Nat.add_comm 1]

/-! The open group and the closed groups of a text, one character further (R177). -/

theorem openChars85_concat (c : Byte) (pre : List Byte) (m : Nat) :
    openChars85 m (pre ++ [c]) =
      if c = shorthand85 then openChars85 m pre else (openChars85 m pre + 1) % 5 := by
  induction pre generalizing m with
  | nil => rfl
  | cons d pre ih =>
    simp only [List.cons_append, openChars85, ih]
    split <;> rfl

theorem closedGroups85_concat (c : Byte) (pre : List Byte) {m : Nat} (hm : m < 5) :
    closedGroups85 m (pre ++ [c]) =
      closedGroups85 m pre + if c = shorthand85 ∨ openChars85 m pre = 4 then 1 else 0 := by
  induction pre generalizing m with
  | nil =>
    by_cases hc : c = shorthand85
    · simp [closedGroups85, openChars85, hc]
    · by_cases h4 : m = 4 <;> simp [closedGroups85, openChars85, hc, h4]
  | cons d pre ih =>
    by_cases hd : d = shorthand85
    · simp [closedGroups85, openChars85, hd, ih hm, Nat.add_assoc]
    · by_cases h4 : m = 4
      · simp [closedGroups85, openChars85, hd, h4, ih, Nat.add_assoc]
      · have hmod : (m + 1) % 5 = m + 1 := Nat.mod_eq_of_lt (by omega)
        simp [closedGroups85, openChars85, hd, h4, hmod, ih (m := m + 1) (by omega)]

/-- Fewer than five characters are ever open. -/
theorem openChars85_lt (pre : List Byte) : openChars85 0 pre < 5 := by
  induction pre using List.reverseRecOn with
  | nil => decide
  | append_singleton pre c ih =>
    rw [openChars85_concat]
    split
    · exact ih
    · exact Nat.mod_lt _ (by decide)

/-- The open group is as long as its count says. -/
theorem openGroup85_length (pre : List Byte) : (openGroup85 pre).length = openChars85 0 pre := by
  have hle : openChars85 0 pre ≤ pre.length := by
    induction pre using List.reverseRecOn with
    | nil => exact le_rfl
    | append_singleton pre c ih =>
      rw [openChars85_concat, List.length_append, List.length_singleton]
      split
      · omega
      · exact (Nat.mod_le _ _).trans (Nat.succ_le_succ ih)
  rw [openGroup85, List.length_drop]
  omega

theorem openGroup85_eq_nil {pre : List Byte} : openGroup85 pre = [] ↔ openChars85 0 pre = 0 := by
  rw [← List.length_eq_zero_iff, openGroup85_length]

/-- A character that does not close the open group is put at its end. -/
theorem openGroup85_concat {pre : List Byte} {c : Byte} (hc : c ≠ shorthand85)
    (h4 : openChars85 0 pre ≠ 4) : openGroup85 (pre ++ [c]) = openGroup85 pre ++ [c] := by
  have hlt := openChars85_lt pre
  have hopen : openChars85 0 (pre ++ [c]) = openChars85 0 pre + 1 := by
    rw [openChars85_concat, if_neg hc, Nat.mod_eq_of_lt (by omega)]
  rw [openGroup85, openGroup85, hopen, List.length_append, List.length_singleton, Nat.add_sub_add_right,
    List.drop_append_of_le_length (Nat.sub_le _ _)]

/-! Texts without a scan error (R177, R179). -/

/-- A position's error is decided by the text up to it. -/
theorem scanError85_append {pre rest : List Byte} {q : Nat} {e : ErrorValue} (h : q < pre.length) :
    scanError85 (pre ++ rest) q e ↔ scanError85 pre q e := by
  simp [scanError85, List.getElem?_append_left h, List.take_append_of_le_length h.le]

theorem not_scanError85_of_length_le {text : List Byte} {q : Nat} {e : ErrorValue} (h : text.length ≤ q) :
    ¬ scanError85 text q e := by
  simp [scanError85, List.getElem?_eq_none h]

/-- The error of a character is read off the text before it. -/
theorem scanError85_at_length {pre rest : List Byte} {c : Byte} {e : ErrorValue} :
    scanError85 (pre ++ c :: rest) pre.length e ↔
      (¬ isDigit85 c ∧ c ≠ shorthand85 ∧ e = .of .illegalChar pre.length c.toNat) ∨
      (c = shorthand85 ∧ openChars85 0 pre ≠ 0 ∧ e = .of .illegalChar pre.length 0x7A) ∨
      (isDigit85 c ∧ openChars85 0 pre = 4 ∧ groupNumber85 (openGroup85 pre ++ [c]) > 2 ^ 32 - 1 ∧
        e = .of .corrupt (closedGroups85 0 pre) 0) := by
  simp [scanError85]

/-- The scan meets no error in the text. -/
def ScanClean85 (text : List Byte) : Prop :=
  ∀ p e, ¬ scanError85 text p e

/-- A text with a scan error at `p` and none before splits at `p`, behind a clean part. -/
theorem exists_clean_split {text : List Byte} {p : Nat} {err : ErrorValue} (herr : scanError85 text p err)
    (hmin : ∀ q < p, ∀ e, ¬ scanError85 text q e) :
    ∃ pre c rest, text = pre ++ c :: rest ∧ pre.length = p ∧ ScanClean85 pre := by
  obtain ⟨c, hget, -⟩ := id herr
  obtain ⟨hlt, rfl⟩ := List.getElem?_eq_some_iff.1 hget
  have hlen : (text.take p).length = p := List.length_take_of_le hlt.le
  have hsplit : text.take p ++ text[p] :: text.drop (p + 1) = text := by simp
  refine ⟨text.take p, text[p], text.drop (p + 1), hsplit.symm, hlen, fun q e hq => ?_⟩
  by_cases hqp : q < p
  · refine hmin q hqp e ?_
    rw [← hsplit]
    exact (scanError85_append (by omega)).2 hq
  · exact not_scanError85_of_length_le (by omega) hq

/-- One more character keeps a text clean only where it starts a group with `z` or is a digit that does not
take its group above its range. -/
theorem ScanClean85.of_concat {pre : List Byte} {c : Byte} (h : ScanClean85 (pre ++ [c])) :
    ScanClean85 pre ∧ ((c = shorthand85 ∧ openChars85 0 pre = 0) ∨
      (isDigit85 c ∧ (openChars85 0 pre = 4 → groupNumber85 (openGroup85 pre ++ [c]) ≤ 2 ^ 32 - 1))) := by
  refine ⟨fun q e hq => ?_, ?_⟩
  · by_cases hlt : q < pre.length
    · exact h q e ((scanError85_append hlt).2 hq)
    · exact not_scanError85_of_length_le (by omega) hq
  · have hlast := fun e => mt scanError85_at_length.2 (h pre.length e)
    by_cases hz : c = shorthand85
    · refine .inl ⟨hz, by_contra fun hopen => ?_⟩
      exact hlast _ (.inr (.inl ⟨hz, hopen, rfl⟩))
    · by_cases hc : isDigit85 c
      · refine .inr ⟨hc, fun h4 => not_lt.1 fun hbig => ?_⟩
        exact hlast _ (.inr (.inr ⟨hc, h4, hbig, rfl⟩))
      · exact absurd (.inl ⟨hc, hz, rfl⟩) (hlast _)

/-- The scan of `rest` behind the text `pre`: from the position, the group index and the open group that
`pre` leaves. -/
def scanFrom85 (pre rest : List Byte) : Except ErrorValue (List Byte) :=
  scan85 pre.length (closedGroups85 0 pre) ((openGroup85 pre).map digit85) rest

/-- No bytes put before a result leave it as it is. -/
theorem map_nil_append (r : Except ErrorValue (List Byte)) : r.map ([] ++ ·) = r := by
  cases r <;> rfl

/-- Bytes put before a result in two parts. -/
theorem map_append_map_append (a b : List Byte) (r : Except ErrorValue (List Byte)) :
    (r.map (b ++ ·)).map (a ++ ·) = r.map (a ++ b ++ ·) := by
  cases r <;> simp [Except.map]

/-- A character without an error takes the scan one character further and emits some bytes. -/
theorem scanFrom85_cons {pre : List Byte} {c : Byte} (h : ScanClean85 (pre ++ [c])) :
    ∃ bytes, ∀ rest, scanFrom85 pre (c :: rest) = (scanFrom85 (pre ++ [c]) rest).map (bytes ++ ·) := by
  obtain ⟨-, ⟨rfl, hopen⟩ | ⟨hc, hfits⟩⟩ := h.of_concat
  · have hnext : openGroup85 (pre ++ [shorthand85]) = [] := by
      rw [openGroup85_eq_nil, openChars85_concat, if_pos rfl, hopen]
    refine ⟨[0, 0, 0, 0], fun rest => ?_⟩
    simp [scanFrom85, openGroup85_eq_nil.2 hopen, hnext, scan85_shorthand, closedGroups85_concat]
  · by_cases h4 : openChars85 0 pre = 4
    · have hnext : openGroup85 (pre ++ [c]) = [] := by
        rw [openGroup85_eq_nil, openChars85_concat, if_neg hc.ne_shorthand, h4]
      refine ⟨bytesOf32 (groupNumber85 (openGroup85 pre ++ [c])), fun rest => ?_⟩
      rw [scanFrom85, scan85_fifth hc ((openGroup85_length pre).trans h4), if_neg (not_lt.2 (hfits h4))]
      simp [scanFrom85, hnext, closedGroups85_concat, h4]
    · have hlen : (openGroup85 pre).length < 4 := by
        have := openChars85_lt pre
        rw [openGroup85_length]
        omega
      refine ⟨[], fun rest => ?_⟩
      rw [map_nil_append, scanFrom85, scan85_digit hc hlen, ← openGroup85_concat hc.ne_shorthand h4]
      simp [scanFrom85, closedGroups85_concat, hc.ne_shorthand, h4]

/-- Behind a clean text, `DEC85` is the scan from what that text leaves, after the bytes it gave. -/
theorem dec85_append_of_clean {pre : List Byte} (h : ScanClean85 pre) :
    ∃ bytes, ∀ rest, dec85 (pre ++ rest) = (scanFrom85 pre rest).map (bytes ++ ·) := by
  induction pre using List.reverseRecOn with
  | nil => exact ⟨[], fun rest => (map_nil_append _).symm⟩
  | append_singleton pre c ih =>
    obtain ⟨front, hfront⟩ := ih h.of_concat.1
    obtain ⟨bytes, hstep⟩ := scanFrom85_cons h
    refine ⟨front ++ bytes, fun rest => ?_⟩
    rw [List.append_assoc, List.singleton_append, hfront, hstep, map_append_map_append]

/-! `DEC85` of a text (R177 to R179): one rule for each answer, and no text escapes them. -/

/-- An error the scan meets behind a clean text is the answer to the whole text. -/
theorem dec85_of_scanFrom85_error {pre rest : List Byte} {err : ErrorValue} (h : ScanClean85 pre)
    (herr : scanFrom85 pre rest = .error err) : dec85 (pre ++ rest) = .error err := by
  obtain ⟨bytes, hdec⟩ := dec85_append_of_clean h
  rw [hdec, herr]
  rfl

/-- The first error of the scan is reported. -/
theorem dec85_of_scanError {text : List Byte} {p : Nat} {err : ErrorValue} (herr : scanError85 text p err)
    (hmin : ∀ q < p, ∀ e, ¬ scanError85 text q e) : dec85 text = .error err := by
  obtain ⟨pre, c, rest, rfl, rfl, hclean⟩ := exists_clean_split herr hmin
  refine dec85_of_scanFrom85_error hclean ?_
  obtain ⟨hdigit, hz, rfl⟩ | ⟨rfl, hopen, rfl⟩ | ⟨hdigit, h4, hbig, rfl⟩ := scanError85_at_length.1 herr
  · exact scan85_invalid hdigit hz
  · exact scan85_shorthand_inside (by simpa [openGroup85_eq_nil] using hopen)
  · exact (scan85_fifth hdigit ((openGroup85_length pre).trans h4)).trans (if_pos hbig)

/-- At the end of a text the scan closes its open group. -/
theorem scanFrom85_nil (text : List Byte) :
    scanFrom85 text [] =
      final85 text.length (closedGroups85 0 text) ((openGroup85 text).map digit85) := by
  rw [scanFrom85, scan85]

/-- With none in the scan, the error at the end of the text is reported. -/
theorem dec85_of_endError {text : List Byte} {err : ErrorValue} (hclean : ScanClean85 text)
    (herr : endError85 text err) : dec85 text = .error err := by
  rw [← List.append_nil text]
  refine dec85_of_scanFrom85_error hclean ?_
  rw [scanFrom85_nil]
  have hlt := openChars85_lt text
  simp only [endError85, ← openGroup85_length] at hlt herr
  obtain ⟨hone, rfl⟩ | ⟨htwo, hbig, rfl⟩ := herr
  · exact final85_of_one ((List.length_map _).trans hone) _ _
  · exact (final85_map htwo hlt.le _ _).trans (if_pos hbig)

/-- With no error in the scan and none at the end, the text decodes. -/
theorem dec85_of_no_error {text : List Byte} (hclean : ScanClean85 text)
    (hend : ∀ e, ¬ endError85 text e) : ∃ bytes, dec85 text = .ok bytes := by
  have hfinal : ∃ last, scanFrom85 text [] = .ok last := by
    have hlt := openChars85_lt text
    simp only [endError85, ← openGroup85_length] at hlt hend
    rw [scanFrom85_nil]
    obtain h0 | h1 | h2 : (openGroup85 text).length = 0 ∨ (openGroup85 text).length = 1 ∨
        2 ≤ (openGroup85 text).length := by omega
    · exact ⟨[], by rw [List.length_eq_zero_iff.1 h0]; rfl⟩
    · exact absurd (.inl ⟨h1, rfl⟩) (hend _)
    · rw [final85_map h2 hlt.le, if_neg fun hbig => hend _ (.inr ⟨h2, hbig, rfl⟩)]
      exact ⟨_, rfl⟩
  obtain ⟨last, hlast⟩ := hfinal
  obtain ⟨bytes, hdec⟩ := dec85_append_of_clean hclean
  exact ⟨bytes ++ last, by rw [← List.append_nil text, hdec, hlast]; rfl⟩

/-- A text that is not clean has a first scan error. -/
theorem exists_first_scanError {text : List Byte} (h : ¬ ScanClean85 text) :
    ∃ p e, scanError85 text p e ∧ ∀ q < p, ∀ e', ¬ scanError85 text q e' := by
  classical
  have hex : ∃ p e, scanError85 text p e := by simpa [ScanClean85] using h
  obtain ⟨p, ⟨e, he⟩, hmin⟩ := Nat.findX hex
  exact ⟨p, e, he, fun q hlt e' he' => hmin q hlt ⟨e', he'⟩⟩

/-- Everything `DEC85` can answer, with what the text then is. -/
theorem dec85_cases (text : List Byte) :
    (∃ p e, scanError85 text p e ∧ dec85 text = .error e) ∨
    (∃ e, endError85 text e ∧ dec85 text = .error e) ∨
    ∃ bytes, dec85 text = .ok bytes := by
  by_cases hclean : ScanClean85 text
  · by_cases hend : ∃ e, endError85 text e
    · obtain ⟨e, he⟩ := hend
      exact .inr (.inl ⟨e, he, dec85_of_endError hclean he⟩)
    · exact .inr (.inr (dec85_of_no_error hclean (not_exists.1 hend)))
  · obtain ⟨p, e, he, hmin⟩ := exists_first_scanError hclean
    exact .inl ⟨p, e, he, dec85_of_scanError he hmin⟩

/-- The fault behind each error of `DEC85` (R182). -/
theorem dec85_error {text : List Byte} {err : ErrorValue} (h : dec85 text = .error err) :
    (∃ p, scanError85 text p err) ∨ endError85 text err := by
  obtain ⟨p, e, he, heq⟩ | ⟨e, he, heq⟩ | ⟨bytes, heq⟩ := dec85_cases text
  · obtain rfl := Except.error.inj (heq.symm.trans h)
    exact .inl ⟨p, he⟩
  · obtain rfl := Except.error.inj (heq.symm.trans h)
    exact .inr he
  · cases heq.symm.trans h

/-- A text that begins with five digits is one full group and the scan of the rest (R177). -/
theorem dec85_full_group {front rest : List Byte} {c : Byte} (hlen : front.length = 4)
    (hfront : ∀ d ∈ front, isDigit85 d) (hc : isDigit85 c) :
    dec85 (front ++ c :: rest) =
      if groupNumber85 (front ++ [c]) > 2 ^ 32 - 1 then .error (.of .corrupt 0 0)
      else (scan85 5 1 [] rest).map (bytesOf32 (groupNumber85 (front ++ [c])) ++ ·) := by
  calc dec85 (front ++ c :: rest) = scan85 (0 + front.length) 0 (front.map digit85) (c :: rest) :=
        scan85_digits hfront 0 0 (c :: rest) [] (by simp [hlen])
    _ = _ := by rw [hlen, scan85_fifth hc hlen]

/-- A text of at most four digits is its open group (R178). -/
theorem dec85_short {group : List Byte} (hlen : group.length ≤ 4) (hdigits : ∀ c ∈ group, isDigit85 c) :
    dec85 group = final85 group.length 0 (group.map digit85) := by
  calc dec85 group = scan85 0 0 ([].map digit85) (group ++ []) := by rw [List.append_nil]; rfl
    _ = _ := by
      rw [scan85_digits hdigits 0 0 [] [] (by simpa using hlen), List.nil_append, scan85, Nat.zero_add]

/-- One group of two to five digits gives the upper bytes of its padded number (R177, R178). -/
theorem dec85_group {group : List Byte} (h2 : 2 ≤ group.length) (h5 : group.length ≤ 5)
    (hdigits : ∀ c ∈ group, isDigit85 c)
    (hfits : groupNumber85 (group ++ List.replicate (5 - group.length) 0x75) ≤ 2 ^ 32 - 1) :
    dec85 group =
      .ok ((bytesOf32 (groupNumber85 (group ++ List.replicate (5 - group.length) 0x75))).take
        (group.length - 1)) := by
  obtain hshort | hfull : group.length ≤ 4 ∨ group.length = 5 := by omega
  · rw [dec85_short hshort hdigits, final85_map h2 h5, if_neg (not_lt.2 hfits)]
  · obtain ⟨front, c, rfl⟩ := (List.eq_nil_or_concat' group).resolve_left (by rintro rfl; simp at hfull)
    obtain ⟨hfront, hc⟩ := List.forall_mem_append.1 hdigits
    rw [hfull, Nat.sub_self, List.replicate_zero, List.append_nil] at hfits ⊢
    rw [dec85_full_group (by simpa using hfull) hfront (hc c (List.mem_singleton_self c)),
      if_neg (not_lt.2 hfits)]
    rfl

/-- The group `s8W-"` is 2^32, above the range, whatever follows it. -/
theorem dec85_above_range (rest : List Byte) :
    dec85 ([0x73, 0x38, 0x57, 0x2D] ++ 0x22 :: rest) = .error (.of .corrupt 0 0) := by
  rw [dec85_full_group rfl (by simp [isDigit85]) (by simp [isDigit85])]
  exact if_pos (by decide)

/-- Settles O60: the scan stops at its first error, the end of the text is judged behind a clean scan, and a
text with neither error decodes. -/
theorem base85DecodeErrorPrecedence : Obligations.Base85DecodeErrorPrecedence :=
  ⟨fun _ _ _ => dec85_of_scanError, fun _ _ => dec85_of_endError, fun _ => dec85_of_no_error,
    dec85_above_range _⟩

end Sys2Proof.Machine
end

section
/-! PROOFS. The commands of the base-85 engine (42_base85.md rules R181 to R184): the rule of the operation at
the engine's own conversion, with that conversion's corner cases (B85EncEmitsTheEncoding,
B85DecEmitsTheDecoding, B85EfeedEmitsWholeGroups, B85EcloseFlushesAndCloses). -/

namespace Sys2Proof.Machine

/-- Settles O32: ENC at the base-85 encoding, which splits behind whole groups into its group and its partial
group. -/
theorem b85EncEmitsTheEncoding : Obligations.B85EncEmitsTheEncoding := by
  refine ⟨fun len s => ⟨?_, ?_⟩, rfl, fun front h4 => ⟨fun b0 b1 b2 b3 => ?_, fun g hpos hle => ?_⟩,
    fun front h4 => ⟨?_, fun k hpos hle => ?_⟩, by decide, by decide⟩
  · exact encode_eq_len_or .b85 .enc rfl rfl (by decide)
  · exact exec_of_enc (i := .b85Enc len) rfl
  · rw [enc85_append h4, enc85_group]
  · rw [enc85_append h4, enc85_partial hpos hle]
  · rw [enc85_append h4, enc85_group]
    rfl
  · rw [enc85_append h4, enc85_partial (g := List.replicate k 0) (by simpa using hpos) (by simpa using hle),
      enc85Partial_replicate_zero hpos hle]

/-- Settles O33: DEC at the base-85 decoding, whose errors are those of `dec85_error` and whose groups those
of `dec85_group`. -/
theorem b85DecEmitsTheDecoding : Obligations.B85DecEmitsTheDecoding := by
  refine ⟨fun len s => ⟨?_, fun hlen => ⟨fun bytes => ?_, fun err => ?_⟩⟩, rfl, rfl, ?_,
    fun group h2 h5 hdigits hfits => ?_, fun _ _ => dec85_error, by decide, by decide,
    fun s t hdata h => ?_⟩
  · exact encode_eq_len_or .b85 .dec rfl rfl (by decide)
  · exact exec_of_dec_ok (i := .b85Dec len) rfl hlen
  · exact answeredLatched_of_dec_error (i := .b85Dec len) rfl hlen
  · exact dec85_group (group := [0x21, 0x21, 0x21, 0x21, 0x21]) (by decide) (by decide)
      (by simp [isDigit85]) (by decide)
  · exact ⟨_, _, _, _, bigEndianNumber_bytesOf32 hfits, dec85_group h2 h5 hdigits hfits⟩
  · have hdec : dec85 s.dataIn = .error (.of .corrupt 0 0) := by rw [hdata]; exact dec85_above_range []
    have hanswer : AnsweredLatched (.b85Dec 5) s (.of .corrupt 0 0) :=
      answeredLatched_of_dec_error rfl (by rw [hdata]; rfl) hdec
    obtain ⟨hrep, -⟩ := of_exec_eq_next hanswer h
    rw [hrep.status_eq, hrep.errPos]
    decide

/-- Settles O34: EFEED at the base-85 feed, which leaves the state and the base-91 fields of the record. -/
theorem b85EfeedEmitsWholeGroups : Obligations.B85EfeedEmitsWholeGroups := by
  refine ⟨fun len s => ⟨?_, fun hlen => ⟨fun hst => ?_, encoderErrors_of_efeed rfl hlen⟩⟩,
    fun res payload hzero => ?_, fun res hres => ?_, fun _ _ => rfl, fun _ _ _ _ _ => rfl,
    by decide, by decide, by decide, by decide, by decide⟩
  · exact encode_eq_len_or .b85 .efeed rfl rfl (by decide)
  · rw [← hst]
    exact exec_of_efeed (i := .b85Efeed len) rfl hlen hst
  · rw [feed85, hzero]
    decide
  · rw [feed85, List.append_nil, encodeGroups85_of_short (Nat.lt_succ_of_le hres)]

/-- Settles O35: ECLOSE at the base-85 flush of the partial group. -/
theorem b85EcloseFlushesAndCloses : Obligations.B85EcloseFlushesAndCloses := by
  refine ⟨by decide, fun s hdata => ⟨?_, ?_⟩, rfl, fun _ => close85_of_ne_nil, fun res hpos hle => ?_,
    by decide⟩
  · exact exec_of_eclose (i := .b85Eclose) rfl hdata
  · exact encoderErrors_of_eclose rfl hdata
  · rw [close85_of_ne_nil (List.ne_nil_of_length_pos hpos), enc85Partial_length (by omega)]

end Sys2Proof.Machine
end

section
/-! PROOFS. The base-91 conversions (43_base91.md rules R201 to R211): the values of the characters, one byte
of the encoder and the bits it leaves over, the flush, and the decoder's pairs and end. -/

namespace Sys2Proof.Machine

/-! The values of the characters (R200, R201). -/

/-- In an alphabet without repetitions, the character at a value has that value. -/
theorem valueOf?_charOf {alphabet : List Byte} (hnodup : alphabet.Nodup) {v : Nat}
    (hv : v < alphabet.length) : valueOf? alphabet (charOf alphabet v) = some v := by
  have hchar : charOf alphabet v = alphabet[v] := by simp [charOf, hv]
  rw [hchar, valueOf?, List.idxOf?_eq_some_iff]
  refine ⟨hv, by simp, fun j hj heq => ?_⟩
  have hjv : j = v := (hnodup.getElem_inj_iff).1 (by simpa using heq)
  omega

theorem val91_charOf {p : Config.B91Params} (hnodup : p.alphabet.Nodup) {v : Nat}
    (hv : v < p.alphabet.length) : val91 p (charOf p.alphabet v) = v := by
  rw [val91, valueOf?_charOf hnodup hv, Option.getD_some]

/-- A byte outside the alphabet has the sentinel's value (R201). -/
theorem val91_of_notMem {p : Config.B91Params} {c : Byte} (h : c ∉ p.alphabet) :
    val91 p c = p.sentinel.toNat := by
  rw [val91, valueOf?, List.idxOf?_eq_none_iff.2 h, Option.getD_none]

theorem alph91_nodup : alph91.Nodup := by decide

/-! The bits of a pair: those the decoder credits are those the encoder takes (R202, R208). -/

theorem creditedBits91_eq (d : Nat) : creditedBits91 d = if d % 8192 > 88 then 13 else 14 := by
  rw [creditedBits91, and_8191_eq_mod]
  rfl

theorem creditedBits91_bounds (d : Nat) : 13 ≤ creditedBits91 d ∧ creditedBits91 d ≤ 14 := by
  rw [creditedBits91_eq]
  split <;> decide

/-! One byte of the encoder (R202, R205). -/

/-- With 14 to 26 bits held, the encoder's loop emits one pair. -/
theorem drainPairs91_once (p : Config.B91Params) (fuel acc : Nat) {nbits : Nat} (hgt : 13 < nbits)
    (hle : nbits ≤ 26) :
    drainPairs91 p (fuel + 1) acc nbits =
      ((acc / 2 ^ creditedBits91 acc, nbits - creditedBits91 acc),
        pairChars91 p (acc % 2 ^ creditedBits91 acc)) := by
  rw [drainPairs91, if_pos hgt, creditedBits91]
  by_cases h : acc &&& 8191 > 88
  · simp only [if_pos h]
    simp only [drainPairs91_of_le p fuel _ (nbits - 13) (by omega), List.append_nil,
      Nat.shiftRight_eq_div_pow, and_8191_eq_mod]
  · simp only [if_neg h]
    simp only [drainPairs91_of_le p fuel _ (nbits - 14) (by omega), List.append_nil,
      Nat.shiftRight_eq_div_pow, and_16383_eq_mod]

/-- R205: at most 13 bits are left over, and the number left over has no bit above them. -/
def Residual91 (st : Nat × Nat) : Prop :=
  st.2 ≤ 13 ∧ st.1 < 2 ^ st.2

/-- A byte put above the bits left over makes a number of eight bits more. -/
theorem residual91_with_byte_lt {acc nbits : Nat} (h : acc < 2 ^ nbits) (b : Byte) :
    acc + b.toNat * 2 ^ nbits < 2 ^ (nbits + 8) := by
  calc acc + b.toNat * 2 ^ nbits < (b.toNat + 1) * 2 ^ nbits := by rw [Nat.succ_mul]; omega
    _ ≤ 2 ^ 8 * 2 ^ nbits := Nat.mul_le_mul_right _ b.isLt
    _ = 2 ^ (nbits + 8) := by rw [Nat.pow_add, Nat.mul_comm]

section Step

variable (p : Config.B91Params) {acc nbits : Nat} (b : Byte)

/-- A byte that leaves at most 13 bits held emits nothing. -/
theorem step91_of_le (hacc : acc < 2 ^ nbits) (hle : nbits + 8 ≤ 13) :
    step91 p (acc, nbits) b = ((acc + b.toNat * 2 ^ nbits, nbits + 8), []) := by
  rw [step91, drainPairs91_of_le _ _ _ _ hle, or_shiftLeft_eq_add _ hacc]

/-- A byte that gives more than 13 bits emits the pair of the lowest 13 or 14. -/
theorem step91_of_gt {n : Nat} (hacc : acc < 2 ^ nbits) (hle : nbits ≤ 13) (hgt : 13 < nbits + 8)
    (hn : n = acc + b.toNat * 2 ^ nbits) :
    step91 p (acc, nbits) b =
      ((n / 2 ^ creditedBits91 n, nbits + 8 - creditedBits91 n), pairChars91 p (n % 2 ^ creditedBits91 n)) := by
  rw [step91, or_shiftLeft_eq_add _ hacc, ← hn, drainPairs91_once _ _ _ hgt (by omega)]

end Step

theorem step91_residual (p : Config.B91Params) {st : Nat × Nat} (h : Residual91 st) (b : Byte) :
    Residual91 (step91 p st b).1 := by
  obtain ⟨acc, nbits⟩ := st
  obtain ⟨hle, hacc⟩ : nbits ≤ 13 ∧ acc < 2 ^ nbits := h
  have hlt := residual91_with_byte_lt hacc b
  obtain hsmall | hgt : nbits + 8 ≤ 13 ∨ 13 < nbits + 8 := by omega
  · rw [step91_of_le p b hacc hsmall]
    exact ⟨hsmall, hlt⟩
  · rw [step91_of_gt p b hacc hle hgt rfl]
    generalize acc + b.toNat * 2 ^ nbits = n at hlt ⊢
    obtain ⟨h13, h14⟩ := creditedBits91_bounds n
    refine ⟨by dsimp only; omega, Nat.div_lt_of_lt_mul ?_⟩
    rwa [← Nat.pow_add, Nat.add_sub_cancel' (by omega)]

/-- Feeding a payload keeps the residual within 13 bits (R205). -/
theorem feed91_residual (p : Config.B91Params) {st : Nat × Nat} (h : Residual91 st) (payload : List Byte) :
    Residual91 (feed91 p st payload).1 := by
  induction payload generalizing st with
  | nil => exact h
  | cons b rest ih => exact ih (step91_residual p h b)

/-- The first byte leaves its eight bits held. -/
theorem feed91_byte (p : Config.B91Params) (b : Byte) : feed91 p (0, 0) [b] = ((b.toNat, 8), []) := by
  simp [feed91, step91_of_le p (acc := 0) (nbits := 0) b (by decide) (by decide)]

/-! The flush (R206). -/

theorem close91_of_pos (p : Config.B91Params) (acc : Nat) {nbits : Nat} (h : 0 < nbits) :
    close91 p acc nbits =
      if nbits > p.closeWidth ∨ acc > 90 then [charOf p.alphabet (acc % 91), charOf p.alphabet (acc / 91)]
      else [charOf p.alphabet (acc % 91)] := by
  rw [close91, if_neg h.ne']
  split <;> rfl

theorem close91_length_of_pos (p : Config.B91Params) (acc : Nat) {nbits : Nat} (h : 0 < nbits) :
    (close91 p acc nbits).length = if nbits > p.closeWidth ∨ acc > 90 then 2 else 1 := by
  rw [close91_of_pos p acc h]
  split <;> rfl

/-! The decoder (R208, R210, R211). -/

/-- A pair puts its value above the bits held and gives every whole byte then held (R208). -/
theorem pair91_eq {p : Config.B91Params} (hseed : p.seed13 = false) (acc nbits v1 v2 : Nat) {d m total : Nat}
    (hd : d = v1 + v2 * 91) (hm : m = acc ||| d <<< nbits) (htotal : total = nbits + creditedBits91 d) :
    pair91 p acc nbits v1 v2 =
      ((m / 2 ^ (8 * (total / 8)), total % 8),
        (List.range (total / 8)).map fun j => BitVec.ofNat 8 (m / 2 ^ (8 * j))) := by
  have hnot : ¬ (p.seed13 = true ∧ nbits = 0) := by simp [hseed]
  rw [pair91, if_neg hnot, ← hd, ← hm, ← htotal, drainBytes91_eq total total m le_rfl]

theorem scan91_pair {p : Config.B91Params} {acc nbits : Nat} {c1 c2 : Byte} {st : Nat × Nat} {o : List Byte}
    (h : pair91 p acc nbits (val91 p c1) (val91 p c2) = (st, o)) (rest : List Byte) :
    scan91 p acc nbits none (c1 :: c2 :: rest) = o ++ scan91 p st.1 st.2 none rest := by
  simp only [scan91, h]

theorem scan91_lone (p : Config.B91Params) (acc nbits : Nat) (c : Byte) :
    scan91 p acc nbits none [c] = [BitVec.ofNat 8 (acc ||| val91 p c <<< nbits)] := by
  simp only [scan91, final91, byte_of_and_255]

theorem scan91_end (p : Config.B91Params) (acc nbits : Nat) :
    scan91 p acc nbits none [] = if acc = 0 then [] else [BitVec.ofNat 8 acc] := by
  simp only [scan91, final91, byte_of_and_255, ne_eq, ite_not]

/-- `DEC91` of one character is its value's low byte (R217). -/
theorem dec91_lone (p : Config.B91Params) (c : Byte) : dec91 p [c] = [BitVec.ofNat 8 (val91 p c)] := by
  rw [dec91, scan91_lone, Nat.zero_or, Nat.shiftLeft_zero]

end Sys2Proof.Machine
end

section
/-! PROOFS. The commands of the base-91 engine (43_base91.md rules R216 to R220): the rule of the operation at
the engine's own conversion, with that conversion's corner cases (B91EncEmitsTheEncoding, B91DecNeverFails,
B91EfeedPacksTheBits, B91EcloseFlushesAndCloses, B91DchunkFillsThePendingBuffer). -/

namespace Sys2Proof.Machine

/-- The channel record holds a residual within R25's limits exactly, so nothing is cut from what a feed
leaves over. -/
theorem feedRecord91_exact {ch : EncChannel} (h : residualFits .b91 ch) (payload : List Byte) :
    ((feedRecord91 payload ch).1.acc.toNat, (feedRecord91 payload ch).1.nbits.toNat) =
      (feed91 b91Params (ch.acc.toNat, ch.nbits.toNat) payload).1 := by
  obtain ⟨-, hnbits, hacc⟩ := h
  obtain ⟨hle, hlt⟩ := feed91_residual b91Params (st := (ch.acc.toNat, ch.nbits.toNat)) ⟨hnbits, hacc⟩ payload
  have hlt13 := hlt.trans_le (Nat.pow_le_pow_right two_pos hle)
  simp only [feedRecord91, BitVec.toNat_ofNat]
  rw [Nat.mod_eq_of_lt hlt13, Nat.mod_eq_of_lt (by omega)]

/-- Settles O37: ENC at the base-91 encoding; after one byte eight bits are held, which the flush gives as two
characters. -/
theorem b91EncEmitsTheEncoding : Obligations.B91EncEmitsTheEncoding := by
  refine ⟨fun len s => ⟨?_, ?_⟩, fun _ => rfl, rfl, fun b => ?_, by decide, by decide⟩
  · exact encode_eq_len_or .b91 .enc rfl rfl (by decide)
  · exact exec_of_enc (i := .b91Enc len) rfl
  · have hwidth : 8 > b91Params.closeWidth := by decide
    rw [enc91, feed91_byte, List.nil_append, close91_length_of_pos _ _ (Nat.succ_pos 7), if_pos (.inl hwidth)]

/-- Settles O38: DEC at the base-91 decoding, which answers every text, by its pairs and its end. -/
theorem b91DecNeverFails : Obligations.B91DecNeverFails := by
  refine ⟨fun len s => ⟨?_, fun hlen => ?_⟩, creditedBits91_eq,
    fun acc nbits v1 v2 d m total hd hm htotal => ?_, fun _ => rfl, fun _ _ _ _ rest _ _ h => scan91_pair h rest,
    scan91_lone b91Params, scan91_end b91Params, fun v hv => val91_charOf (p := b91Params) alph91_nodup hv,
    dec91_lone b91Params, fun _ => val91_of_notMem (p := b91Params), by decide, by decide⟩
  · exact encode_eq_len_or .b91 .dec rfl rfl (by decide)
  · exact exec_of_dec_ok (i := .b91Dec len) rfl hlen rfl
  · exact pair91_eq rfl acc nbits v1 v2 hd hm (by rw [htotal, creditedBits91_eq])

/-- Settles O39: EFEED at the base-91 feed, whose residual the record holds exactly. -/
theorem b91EfeedPacksTheBits : Obligations.B91EfeedPacksTheBits := by
  refine ⟨fun len s => ⟨?_, fun hlen => ⟨fun hst hfits => ?_, encoderErrors_of_efeed rfl hlen⟩⟩,
    fun _ => rfl, fun _ _ _ => rfl, fun b => by rw [feed91_byte], by decide, by decide, by decide⟩
  · exact encode_eq_len_or .b91 .efeed rfl rfl (by decide)
  · obtain ⟨t, hexec, hreports, hchanged⟩ := exec_of_efeed (i := .b91Efeed len) rfl hlen hst
    exact ⟨t, _, hexec, hreports, hchanged, hst, rfl, feedRecord91_exact hfits s.dataIn⟩

/-- Settles O40: ECLOSE at the base-91 flush of the bits left over. -/
theorem b91EcloseFlushesAndCloses : Obligations.B91EcloseFlushesAndCloses := by
  refine ⟨by decide, fun s hdata => ⟨?_, ?_⟩, fun _ => rfl, fun acc _ => close91_length_of_pos b91Params acc,
    fun acc _ => close91_of_pos b91Params acc, by decide⟩
  · exact exec_of_eclose (i := .b91Eclose) rfl hdata
  · exact encoderErrors_of_eclose rfl hdata

/-- Settles O41: DCHUNK at the base-91 decoding, which no chunk fails, on an OPEN channel with nothing pending,
then while bytes are pending, then in the states of R102. -/
theorem b91DchunkFillsThePendingBuffer : Obligations.B91DchunkFillsThePendingBuffer := by
  refine ⟨fun len s => ⟨?_, fun hlen => ⟨fun hst hpend => ?_, ?_, ?_⟩⟩, by decide, by decide, by decide,
    by decide, by decide, by decide⟩
  · exact encode_eq_len_or .b91 .dchunk rfl rfl (by decide)
  · exact exec_of_dchunk_ok (i := .b91Dchunk len) rfl hlen hst hpend rfl
  · exact answeredBare_of_dchunk_pending (i := .b91Dchunk len) rfl hlen
  · exact decoderErrors_of_dchunk rfl hlen

end Sys2Proof.Machine
end

section
/-! PROOFS. Errors are precise (60_exceptions.md rule R245, ErrorsArePrecise). Each effect is looked at once, as
one that only reports whenever it ends in ERROR or STATE; EFAIL, DFAIL and DCHUNK on a channel that admits
them are the three that latch, each by its own rule (R106, R111, R108). -/

namespace Sys2Proof.Machine

/-- The result registers say ERROR or STATE (R33). -/
def EndsInError (t : State) : Prop :=
  statusResult t.status = 3 ∨ statusResult t.status = 5

/-- If `t` ends in ERROR or STATE, nothing but the result registers has changed since `s`, and COUNT is 0. -/
def OnlyReportsErrors (s t : State) : Prop :=
  EndsInError t → OnlyReported s t ∧ t.count = 0

/-- EFAIL, on a channel that admits it (R106). -/
def AdmittedEfail (i : Instr) (s : State) : Prop :=
  i.op = .efail ∧ (s.enc.get i.engine).st = .opened

/-- DFAIL, on a channel that admits it (R111). -/
def AdmittedDfail (i : Instr) (s : State) : Prop :=
  i.op = .dfail ∧ ((s.dec.get i.engine).st = .opened ∨ (s.dec.get i.engine).st = .eof)

/-- DCHUNK, on a channel that admits it and has nothing pending (R108). -/
def AdmittedDchunk (i : Instr) (s : State) : Prop :=
  i.op = .dchunk ∧ (s.dec.get i.engine).st = .opened ∧ (s.dec.get i.engine).pend = []

/-- The command `i` has reported `err` and latched it on its encoder channel; nothing else has changed. -/
def EncLatched (i : Instr) (s t : State) (err : ErrorValue) : Prop :=
  Reports t (cmdIdOf i) .error err.kind.code err.pos err.aux 0 ∧
    EncChanged s t i.engine { st := .failed err, res := [], acc := 0, nbits := 0 } []

/-- The command `i` has reported `err` and latched it on its decoder channel; nothing else has changed. -/
def DecLatched (i : Instr) (s t : State) (err : ErrorValue) : Prop :=
  Reports t (cmdIdOf i) .error err.kind.code err.pos err.aux 0 ∧
    DecChanged s t i.engine { st := .failed err, pend := [] } []

/-! Which reports end in ERROR or STATE. -/

theorem Reports.endsInError_iff {t : State} {c : CmdId} {r : Result} {kind : BitVec 4} {pos aux : Word}
    {count : Nat} (h : Reports t c r kind pos aux count) : EndsInError t ↔ r = .error ∨ r = .state := by
  rw [EndsInError, h.result]
  cases r <;> decide

/-- A command that reports OK does not end so. -/
theorem Reports.not_endsInError {t : State} {c : CmdId} {kind : BitVec 4} {pos aux : Word} {count : Nat}
    (h : Reports t c .ok kind pos aux count) : ¬ EndsInError t := by
  simp [h.endsInError_iff]

/-! Reports and channel checks that only report their errors. -/

theorem onlyReportsErrors_of_ok {s t : State} {c : CmdId} {kind : BitVec 4} {pos aux : Word} {count : Nat}
    (h : Reports t c .ok kind pos aux count) : OnlyReportsErrors s t :=
  fun hend => absurd hend h.not_endsInError

theorem onlyReportsErrors_finishError (s : State) (c : CmdId) (err : ErrorValue) :
    OnlyReportsErrors s (s.finishError c err) :=
  fun _ => ⟨s.finish_onlyReported c .error _ _ _ 0, rfl⟩

theorem onlyReportsErrors_finishBare (s : State) (c : CmdId) (r : Result) :
    OnlyReportsErrors s (s.finishBare c r) :=
  fun _ => ⟨s.finish_onlyReported c r 0 0 0 0, rfl⟩

/-- Behind `CheckEnc` only the command's own work, on an OPEN channel, can do more than report. -/
theorem onlyReportsErrors_checkEnc (c : CmdId) (e : Engine) (s : State) {work : EncChannel → State}
    (h : (s.enc.get e).st = .opened → OnlyReportsErrors s (work (s.enc.get e))) :
    OnlyReportsErrors s (checkEnc c e s work) := by
  obtain ⟨err, -, heq⟩ | ⟨-, heq⟩ | ⟨hst, heq⟩ := checkEnc_cases c e s work <;> rw [heq]
  · exact onlyReportsErrors_finishError s c err
  · exact onlyReportsErrors_finishBare s c .state
  · exact h hst

/-- Behind `CheckDec` only the command's own work, on an admitted channel, can do more than report. -/
theorem onlyReportsErrors_checkDec (c : CmdId) (e : Engine) (eofOk : Bool) (s : State)
    {work : DecChannel → State}
    (h : (s.dec.get e).st = .opened ∨ ((s.dec.get e).st = .eof ∧ eofOk = true) →
      OnlyReportsErrors s (work (s.dec.get e))) :
    OnlyReportsErrors s (checkDec c e eofOk s work) := by
  obtain ⟨err, -, heq⟩ | ⟨-, heq⟩ | ⟨hst, heq⟩ := checkDec_cases c e eofOk s work <;> rw [heq]
  · exact onlyReportsErrors_finishError s c err
  · exact onlyReportsErrors_finishBare s c .state
  · exact h hst

/-- DEC never latches: its error is only reported. -/
theorem onlyReportsErrors_decodeWhole (e : Engine) (r : Except ErrorValue (List Byte)) (s : State) :
    OnlyReportsErrors s (decodeWhole e r s) := by
  obtain ⟨err, -, heq⟩ | ⟨bytes, -, heq⟩ := decodeWhole_cases e r s <;> rw [heq]
  · exact onlyReportsErrors_finishError s _ err
  · exact onlyReportsErrors_of_ok (s.deliver_reports _ bytes)

/-- DREAD never latches: what it does to the channel goes with OK. -/
theorem onlyReportsErrors_readPending (e : Engine) (n : Len) (s : State) :
    OnlyReportsErrors s (readPending e n s) := by
  refine onlyReportsErrors_checkDec _ e true s fun _ => ?_
  split
  · exact onlyReportsErrors_of_ok (State.deliver_reports _ _ _)
  · split
    · exact onlyReportsErrors_finishBare s _ .endOfInput
    · exact onlyReportsErrors_finishBare s _ .needChunk

/-- DCHUNK only reports its errors unless its channel is OPEN with nothing pending. -/
theorem onlyReportsErrors_chunkChannel (e : Engine) (r : Except ErrorValue (List Byte)) (s : State)
    (h : ¬ ((s.dec.get e).st = .opened ∧ (s.dec.get e).pend = [])) :
    OnlyReportsErrors s (chunkChannel e r s) := by
  obtain ⟨err, -, heq⟩ | ⟨-, heq⟩ | ⟨hst, hpend, -⟩ := chunkChannel_cases e r s
  · exact heq ▸ onlyReportsErrors_finishError s _ err
  · exact heq ▸ onlyReportsErrors_finishBare s _ .state
  · exact absurd ⟨hst, hpend⟩ h

/-- Every command only reports its errors, but for the three that latch one. -/
theorem onlyReportsErrors_effect (i : Instr) (s : State) (p : List Byte) (hefail : ¬ AdmittedEfail i s)
    (hdfail : ¬ AdmittedDfail i s) (hdchunk : ¬ AdmittedDchunk i s) :
    OnlyReportsErrors s (effect i s p) := by
  unfold effect
  cases h : i.op with
  | enc => exact onlyReportsErrors_of_ok (s.deliver_reports _ _)
  | dec => exact onlyReportsErrors_decodeWhole _ _ s
  | eopen => exact onlyReportsErrors_of_ok (State.finish_reports _ _ .ok 0 0 0 0)
  | efeed =>
    exact onlyReportsErrors_checkEnc _ _ s fun _ => onlyReportsErrors_of_ok (State.deliver_reports _ _ _)
  | eclose =>
    exact onlyReportsErrors_checkEnc _ _ s fun _ => onlyReportsErrors_of_ok (State.deliver_reports _ _ _)
  | efail => exact onlyReportsErrors_checkEnc _ _ s fun hst => absurd ⟨h, hst⟩ hefail
  | dopen => exact onlyReportsErrors_of_ok (State.finish_reports _ _ .ok 0 0 0 0)
  | dchunk => exact onlyReportsErrors_chunkChannel _ _ s fun hst => hdchunk ⟨h, hst⟩
  | dread => exact onlyReportsErrors_readPending _ _ s
  | deof =>
    exact onlyReportsErrors_checkDec _ _ _ s fun _ =>
      onlyReportsErrors_of_ok (State.finish_reports _ _ .ok 0 0 0 0)
  | dfail =>
    exact onlyReportsErrors_checkDec _ _ _ s fun hst => absurd ⟨h, hst.imp_right And.left⟩ hdfail

/-! The commands that latch, and what holds of every command that ends in ERROR or STATE. -/

theorem EncLatched.out_count {i : Instr} {s t : State} {err : ErrorValue} (h : EncLatched i s t err) :
    t.out = s.out ∧ t.count = 0 :=
  ⟨h.2.out.trans (List.append_nil _), h.1.count⟩

theorem DecLatched.out_count {i : Instr} {s t : State} {err : ErrorValue} (h : DecLatched i s t err) :
    t.out = s.out ∧ t.count = 0 :=
  ⟨h.2.out.trans (List.append_nil _), h.1.count⟩

/-- A command that carries a payload completes only with LEN bytes on the data-in port. -/
theorem dataIn_length_of_exec {i : Instr} {s t : State} (hop : i.op.carriesPayload = true)
    (h : exec i s = .next t) : s.dataIn.length = i.len.toNat := by
  rw [(exec_eq_next.1 h).1, Instr.payloadBytes, if_pos hop]

section Latch

variable {i : Instr} {s t : State}

/-- An admitted EFAIL latches UPSTREAM with the command's code. -/
theorem encLatched_of_admittedEfail (hadm : AdmittedEfail i s) (hexec : exec i s = .next t) :
    EncLatched i s t { kind := .upstream, pos := 0, aux := i.len.setWidth 32 } := by
  obtain ⟨hop, hst⟩ := hadm
  have hdata : s.dataIn = [] := dataIn_eq_nil_of_exec (by rw [hop]; rfl) hexec
  exact of_exec_eq_next (exec_of_efail hop hdata hst) hexec

/-- An admitted DFAIL latches UPSTREAM with the command's code. -/
theorem decLatched_of_admittedDfail (hadm : AdmittedDfail i s) (hexec : exec i s = .next t) :
    DecLatched i s t { kind := .upstream, pos := 0, aux := i.len.setWidth 32 } := by
  obtain ⟨hop, hst⟩ := hadm
  have hdata : s.dataIn = [] := dataIn_eq_nil_of_exec (by rw [hop]; rfl) hexec
  exact of_exec_eq_next (exec_of_dfail hop hdata hst) hexec

/-- An admitted DCHUNK that ends in an error latches the error of its chunk's decoding. -/
theorem decLatched_of_admittedDchunk (hadm : AdmittedDchunk i s) (hexec : exec i s = .next t)
    (hend : EndsInError t) : ∃ err, decodeBy i.engine s.dataIn = .error err ∧ DecLatched i s t err := by
  obtain ⟨hop, hst, hpend⟩ := hadm
  have hlen : s.dataIn.length = i.len.toNat := dataIn_length_of_exec (by rw [hop]; rfl) hexec
  cases hdec : decodeBy i.engine s.dataIn with
  | error err => exact ⟨err, rfl, of_exec_eq_next (exec_of_dchunk_error hop hlen hst hpend hdec) hexec⟩
  | ok bytes =>
    obtain ⟨hok, -⟩ := of_exec_eq_next (exec_of_dchunk_ok hop hlen hst hpend hdec) hexec
    exact absurd hend hok.not_endsInError

/-- ENC ends with OK. -/
theorem op_ne_enc_of_endsInError (hexec : exec i s = .next t) (hend : EndsInError t) : i.op ≠ .enc := by
  intro hop
  have hlen : s.dataIn.length = i.len.toNat := dataIn_length_of_exec (by rw [hop]; rfl) hexec
  obtain ⟨hok, -⟩ := of_exec_eq_next (exec_of_enc hop hlen) hexec
  exact hok.not_endsInError hend

/-- A command that ends in ERROR or STATE and is none of the three that latch has only reported. -/
theorem onlyReported_of_endsInError (hexec : exec i s = .next t) (hend : EndsInError t)
    (hefail : ¬ AdmittedEfail i s) (hdfail : ¬ AdmittedDfail i s) (hdchunk : ¬ AdmittedDchunk i s) :
    OnlyReported s t ∧ t.count = 0 := by
  obtain ⟨-, rfl⟩ := exec_eq_next.1 hexec
  exact onlyReportsErrors_effect i s s.dataIn hefail hdfail hdchunk hend

/-- A command that ends in ERROR or STATE appends nothing to OUT and counts nothing, also where it latches. -/
theorem out_count_of_endsInError (hexec : exec i s = .next t) (hend : EndsInError t) :
    t.out = s.out ∧ t.count = 0 := by
  by_cases hefail : AdmittedEfail i s
  · exact (encLatched_of_admittedEfail hefail hexec).out_count
  by_cases hdfail : AdmittedDfail i s
  · exact (decLatched_of_admittedDfail hdfail hexec).out_count
  by_cases hdchunk : AdmittedDchunk i s
  · obtain ⟨err, -, hlatched⟩ := decLatched_of_admittedDchunk hdchunk hexec hend
    exact hlatched.out_count
  · obtain ⟨honly, hcount⟩ := onlyReported_of_endsInError hexec hend hefail hdfail hdchunk
    exact ⟨honly.out, hcount⟩

end Latch

/-- A completing transaction of an illegal word only reports, with COUNT 0 (R76). -/
theorem onlyReported_of_illegal {s t : State} {w : Word} {e : DecodeError} (hw : decodeWord w = .error e)
    (h : runCommandWord w s = .next t) : OnlyReported s t ∧ t.count = 0 := by
  simp only [runCommandWord, hw] at h
  obtain ⟨-, rfl⟩ := onTransaction_eq_next.1 h
  exact ⟨s.finish_onlyReported (cmdIdOfWord w) .illegal 0 0 0 0, rfl⟩

/-- Settles O46: the three commands that latch do so by their own rules, every other command that ends in
ERROR or STATE only reports, and so does the answer to an illegal word. -/
theorem errorsArePrecise : Obligations.ErrorsArePrecise := by
  refine ⟨fun i s t hexec hend => ?_, fun s t w payload rest e hq hw hstep => ?_⟩
  · obtain ⟨hout, hcount⟩ := out_count_of_endsInError hexec hend
    refine ⟨op_ne_enc_of_endsInError hexec hend, hout, hcount, fun hefail => ?_, fun hdfail => ?_,
      fun hdchunk => ?_, fun hefail hdfail hdchunk => ?_⟩
    · exact ⟨_, rfl, encLatched_of_admittedEfail hefail hexec⟩
    · exact ⟨_, rfl, decLatched_of_admittedDfail hdfail hexec⟩
    · exact decLatched_of_admittedDchunk hdchunk hexec hend
    · exact (onlyReported_of_endsInError hexec hend hefail hdfail hdchunk).1
  · exact onlyReported_of_illegal hw ((step_command hq).symm.trans hstep)

end Sys2Proof.Machine
end

section
/-! PROOFS. The reset state (70_reset_and_hazards.md rules R270 and R272, ResetStateOfTheBlock): the views of a
channel after reset, the registers of the block after reset, and the step of the reset input. -/

namespace Sys2Proof.Machine

/-! The registers after reset (R34 to R38). -/

theorem viewE45_reset : viewE45 .reset = 0 := by decide

theorem viewE85_reset : viewE85 .reset = 0 := by decide

theorem viewE91_reset : viewE91 .reset = 0 := by decide

theorem viewDec_reset : viewDec .reset = 0 := by decide

/-- Every register reads 0 after reset: the result registers hold 0 and the channel views are 0. -/
theorem readRegister_reset (o : Nat) : State.reset.readRegister o = 0 := by
  simp only [State.readRegister, State.reset, viewE45_reset, viewE85_reset, viewE91_reset, viewDec_reset,
    ite_self]

/-! The reset input (R272). -/

/-- The step of the reset input: the host keeps its later actions and the last reply, the block nothing. -/
theorem step_reset {s : State} {rest : List HostAction} (hq : s.hostQueue = .reset :: rest) :
    step s = .next { State.reset with hostQueue := rest, reply := s.reply } := by
  simp [step, serviceHost, hq, performAction, assertReset]

/-- Right after reset, at the start or by the reset input, only the host's side can differ from
`State.reset`. -/
theorem eq_reset_of_start_or_resetInput {s t : State} {rest : List HostAction}
    (h : t = State.reset ∨ (s.hostQueue = .reset :: rest ∧ step s = .next t)) :
    ∃ queue reply, t = { State.reset with hostQueue := queue, reply := reply } := by
  obtain rfl | ⟨hq, hstep⟩ := h
  · exact ⟨[], .nothing, rfl⟩
  · cases (step_reset hq).symm.trans hstep
    exact ⟨rest, s.reply, rfl⟩

/-- Settles O15: both ways to reset give the block's part of `State.reset`, whose channels are the reset
records and whose registers read 0. -/
theorem resetStateOfTheBlock : Obligations.ResetStateOfTheBlock := by
  intro s t rest h
  obtain ⟨queue, reply, rfl⟩ := eq_reset_of_start_or_resetInput h
  refine ⟨fun e => ?_, rfl, rfl, rfl, rfl, rfl, readRegister_reset⟩
  have henc : State.reset.enc.get e = .reset := PerEngine.get_mk _ e
  have hdec : State.reset.dec.get e = .reset := PerEngine.get_mk _ e
  exact ⟨henc, hdec, congrArg (·.st.err) henc, congrArg (·.st.err) hdec⟩

end Sys2Proof.Machine
end

section
/-! PROOFS. `Encode` and `Decode` are inverse (30_encoding.md rules R70 to R79): a word and its four fields
(EncodeOfDecodeIsTheWord, SpecExampleWordsDecode), a word and its four bytes (DecodeOfEncodeIsTheCommand), and a
word and the rows of the opcode map (EveryWordMatchesOneRowOrIsIllegal). -/

namespace Sys2Proof.Machine

/-! A word is its four fields (R70) and its four bytes (R54). -/

theorem word_ext_fields {v w : Word} (heng : engField v = engField w) (hrsv : rsvField v = rsvField w)
    (hop : opField v = opField w) (hlen : lenField v = lenField w) : v = w := by
  rw [BitVec.toNat_eq] at heng hrsv hop hlen ⊢
  rw [engField_toNat, engField_toNat] at heng
  rw [rsvField_toNat, rsvField_toNat] at hrsv
  rw [opField_toNat, opField_toNat] at hop
  rw [lenField_toNat, lenField_toNat] at hlen
  omega

/-- The four bytes of a word, put back at their places, are the word. -/
theorem place_bytesOfWord (w : Word) :
    place (w.extractLsb' 0 8) 0 ||| place (w.extractLsb' 8 8) 8 ||| place (w.extractLsb' 16 8) 16 |||
      place (w.extractLsb' 24 8) 24 = w := by
  refine BitVec.eq_of_getLsbD_eq fun j hj => ?_
  simp only [BitVec.getLsbD_or, getLsbD_place, BitVec.getLsbD_extractLsb']
  interval_cases j <;> simp

/-- Decoding the bytes of a word is decoding the word, with the bytes after it. -/
theorem decodeBytes_bytesOfWord (w : Word) (rest : List Byte) :
    decodeBytes (bytesOfWord w ++ rest) = (decodeWord w).map (·, rest) := by
  simp only [bytesOfWord, List.cons_append, List.nil_append, decodeBytes, place_bytesOfWord]
  cases decodeWord w <;> rfl

/-- Settles O1, from the word by its fields and from its bytes through the word. -/
theorem decodeOfEncodeIsTheCommand : Obligations.DecodeOfEncodeIsTheCommand := fun i =>
  ⟨decodeWord_encode i, fun rest => by rw [decodeBytes_bytesOfWord, decodeWord_encode]; rfl⟩

/-! The codes read back as engines and operations (R71, R72). -/

theorem Engine.code_of_ofCode? {c : BitVec 2} {e : Engine} (h : Engine.ofCode? c = some e) : c = e.code := by
  revert c e
  decide

theorem Op.code_of_ofCode? {c : BitVec 4} {o : Op} (h : Op.ofCode? c = some o) : c = o.code := by
  revert c o
  decide

theorem Engine.code_injective : Function.Injective Engine.code := by
  intro e e' h
  exact Option.some.inj ((engineOfCode?_code e).symm.trans ((congrArg _ h).trans (engineOfCode?_code e')))

theorem Op.code_injective : Function.Injective Op.code := by
  intro o o' h
  exact Option.some.inj ((opOfCode?_code o).symm.trans ((congrArg _ h).trans (opOfCode?_code o')))

theorem Instr.len_ofFields {o : Op} {n : Len} (e : Engine) (h : o.lenMustBeZero = true → n = 0) :
    (Instr.ofFields o e n).len = n := by
  cases o <;> cases e <;> first | rfl | exact (h rfl).symm

/-- What a word that decodes to a command holds in its fields. -/
theorem fields_of_decodeWord {w : Word} {i : Instr} (h : decodeWord w = .ok i) :
    engField w = i.engine.code ∧ rsvField w = 0 ∧ opField w = i.op.code ∧ lenField w = i.len := by
  unfold decodeWord at h
  split at h
  · cases h
  next hrsv =>
    split at h
    · cases h
    next e heng =>
      split at h
      · cases h
      next o hop =>
        split at h
        · cases h
        next hlen =>
          cases h
          have hzero : o.lenMustBeZero = true → lenField w = 0 := by simpa using hlen
          rw [Instr.engine_ofFields, Instr.op_ofFields, Instr.len_ofFields e hzero]
          exact ⟨Engine.code_of_ofCode? heng, not_ne_iff.1 hrsv, Op.code_of_ofCode? hop, rfl⟩

/-- Settles O2: the word and the encoding of its command have the same four fields. -/
theorem encodeOfDecodeIsTheWord : Obligations.EncodeOfDecodeIsTheWord := by
  intro w i h
  obtain ⟨heng, hrsv, hop, hlen⟩ := fields_of_decodeWord h
  apply word_ext_fields
  · rw [engField_encode, heng]
  · rw [rsvField_encode, hrsv]
  · rw [opField_encode, hop]
  · rw [lenField_encode, hlen]

/-! The rows of the opcode map (R79). -/

/-- The row of an operation and an engine: the fixed bits are those of OP and ENG, and a LEN that must be 0 is
under the mask. -/
def rowOf (c : Op × Engine) : OpcodeRow where
  mnemonic := c.2.name ++ "." ++ c.1.name
  fixed    := BitVec.ofNat 32 (16 * c.1.code.toNat + c.2.code.toNat)
  mask     := if c.1.lenMustBeZero then 0xFFFFFFFF else 0x000000FF

/-- The operations and engines in the order of the opcode map. -/
def mapOrder : List (Op × Engine) :=
  [Op.enc, .dec, .eopen, .efeed, .eclose, .efail, .dopen, .dchunk, .dread, .deof, .dfail].flatMap fun o =>
    [Engine.b45, .b85, .b91].map fun e => (o, e)

theorem opcodeMap_eq : opcodeMap = mapOrder.map rowOf := by decide

theorem mem_mapOrder (c : Op × Engine) : c ∈ mapOrder := by
  obtain ⟨o, e⟩ := c
  cases o <;> cases e <;> decide

theorem mapOrder_nodup : mapOrder.Nodup := by decide

/-- The fixed bits of a row as a number; they lie in the low byte. -/
theorem fixed_rowOf_toNat (c : Op × Engine) :
    (rowOf c).fixed.toNat = 16 * c.1.code.toNat + c.2.code.toNat := by
  obtain ⟨o, e⟩ := c
  cases o <;> cases e <;> rfl

/-- A row accepts a word exactly where the fields under its mask are the row's. -/
theorem accepts_rowOf (c : Op × Engine) (w : Word) :
    (rowOf c).accepts w = true ↔
      engField w = c.2.code ∧ rsvField w = 0 ∧ opField w = c.1.code ∧
        (c.1.lenMustBeZero = true → lenField w = 0) := by
  have hlow : (w &&& 0x000000FF).toNat = w.toNat % 256 := Nat.and_two_pow_sub_one_eq_mod w.toNat 8
  have hall : w &&& 0xFFFFFFFF = w := BitVec.and_allOnes
  have hzero (n : Nat) : (0 : BitVec n).toNat = 0 := BitVec.toNat_zero
  have heng := c.2.code.isLt
  have hop := c.1.code.isLt
  rw [OpcodeRow.accepts, beq_iff_eq, BitVec.toNat_eq, fixed_rowOf_toNat, BitVec.toNat_eq, BitVec.toNat_eq,
    BitVec.toNat_eq, BitVec.toNat_eq, engField_toNat, rsvField_toNat, opField_toNat, lenField_toNat, rowOf]
  cases c.1.lenMustBeZero
  · simp only [Bool.false_eq_true, if_false, hlow, false_implies, and_true, hzero]
    omega
  · simp only [if_true, hall, true_implies, hzero]
    omega

/-- A row accepts a word that decodes to a command exactly where it is that command's row. -/
theorem accepts_rowOf_of_decodeWord {w : Word} {i : Instr} (h : decodeWord w = .ok i) (c : Op × Engine) :
    (rowOf c).accepts w = true ↔ c = (i.op, i.engine) := by
  obtain ⟨heng, hrsv, hop, hlen⟩ := fields_of_decodeWord h
  rw [accepts_rowOf, heng, hop, hlen]
  refine ⟨fun ⟨he, _, ho, _⟩ => Prod.ext (Op.code_injective ho).symm (Engine.code_injective he).symm, ?_⟩
  rintro rfl
  exact ⟨rfl, hrsv, rfl, Instr.len_of_lenMustBeZero⟩

/-- A word that a row accepts decodes to a command. -/
theorem exists_decodeWord_of_accepts {w : Word} {c : Op × Engine} (h : (rowOf c).accepts w = true) :
    ∃ i, decodeWord w = .ok i := by
  obtain ⟨heng, hrsv, hop, hlen⟩ := (accepts_rowOf c w).1 h
  refine ⟨Instr.ofFields c.1 c.2 (lenField w), ?_⟩
  simp only [decodeWord, heng, hrsv, hop, engineOfCode?_code, opOfCode?_code]
  rw [if_neg (not_not.2 rfl), if_neg fun ⟨hzero, hne⟩ => hne (hlen hzero)]

/-- The rows that accept a word, by operation and engine. -/
theorem filter_accepts_eq (w : Word) :
    opcodeMap.filter (fun r => r.accepts w) =
      (mapOrder.filter fun c => (rowOf c).accepts w).map rowOf := by
  rw [opcodeMap_eq, List.filter_map]
  rfl

/-- The rows that accept a word that decodes to a command are that command's row alone. -/
theorem filter_accepts_of_decodeWord {w : Word} {i : Instr} (h : decodeWord w = .ok i) :
    opcodeMap.filter (fun r => r.accepts w) = [rowOf (i.op, i.engine)] := by
  have hone : (mapOrder.filter fun c => (rowOf c).accepts w) = mapOrder.filter (· == (i.op, i.engine)) :=
    List.filter_congr fun c _ => Bool.eq_iff_iff.2 ((accepts_rowOf_of_decodeWord h c).trans beq_iff_eq.symm)
  rw [filter_accepts_eq, hone, List.filter_beq, List.count_eq_one_of_mem mapOrder_nodup (mem_mapOrder _)]
  rfl

/-- No row accepts an illegal word. -/
theorem filter_accepts_of_illegal {w : Word} {e : DecodeError} (h : decodeWord w = .error e) :
    opcodeMap.filter (fun r => r.accepts w) = [] := by
  rw [filter_accepts_eq, List.map_eq_nil_iff, List.filter_eq_nil_iff]
  intro c _ hacc
  obtain ⟨i, hi⟩ := exists_decodeWord_of_accepts hacc
  cases h.symm.trans hi

/-- Settles O4: the map's rows are those of the operations and engines, and a row accepts a word exactly where
the word's fields are the row's. -/
theorem everyWordMatchesOneRowOrIsIllegal : Obligations.EveryWordMatchesOneRowOrIsIllegal := by
  refine ⟨fun i => ⟨rowOf (i.op, i.engine), ?_, rfl, rfl, rfl⟩, fun w => ⟨fun i h => ?_, fun e h => ?_⟩⟩
  · rw [opcodeMap_eq]
    exact List.mem_map_of_mem (mem_mapOrder _)
  · exact ⟨_, filter_accepts_of_decodeWord h, rfl⟩
  · exact filter_accepts_of_illegal h

/-- Settles O5: the words are the encodings of their commands. -/
theorem specExampleWordsDecode : Obligations.SpecExampleWordsDecode :=
  ⟨decodeWord_encode (.b45Enc 2), decodeWord_encode (.b85Dec 5), decodeWord_encode .b45Eopen,
    decodeWord_encode (.b91Efeed 4), decodeWord_encode .b85Eclose, decodeWord_encode (.b85Efail 5),
    decodeWord_encode .b91Dopen, decodeWord_encode (.b91Dchunk 5), decodeWord_encode (.b45Dread 1),
    decodeWord_encode .b45Deof, decodeWord_encode (.b91Dfail 0x10)⟩

end Sys2Proof.Machine
end

section
/-! PROOFS. What a command can do, said once: it updates at most the channel record of its own engine and
direction, appends to OUT, and ends with one `Finish` (10_state.md rule R32, 40_streaming.md rules R101 to R114).
`EncUpdate` and `DecUpdate` list the updates with the operation and the channel state each one needs. From it,
the laws of the whole block: CommandsTouchOnlyTheirOwnChannel, EncodersFailOnlyUpstream and
OutIsAppendedAndDrainedInOrder. -/

namespace Sys2Proof.Machine

/-- How the command `i` with the payload `p` can update the encoder channel record `ch` of its engine. -/
inductive EncUpdate (i : Instr) (p : List Byte) (ch : EncChannel) : EncChannel → Prop
  | eopen (hop : i.op = .eopen) : EncUpdate i p ch { st := .opened, res := [], acc := 0, nbits := 0 }
  | efeed (hop : i.op = .efeed) (hst : ch.st = .opened) : EncUpdate i p ch (feedBy i.engine p ch).1
  | eclose (hop : i.op = .eclose) (hst : ch.st = .opened) : EncUpdate i p ch .closedRecord
  | efail (hop : i.op = .efail) (hst : ch.st = .opened) :
      EncUpdate i p ch
        { st := .failed { kind := .upstream, pos := 0, aux := i.len.setWidth 32 }
          res := [], acc := 0, nbits := 0 }

/-- How the command `i` with the payload `p` can update the decoder channel record `ch` of its engine. -/
inductive DecUpdate (i : Instr) (p : List Byte) (ch : DecChannel) : DecChannel → Prop
  | dopen (hop : i.op = .dopen) : DecUpdate i p ch { st := .opened, pend := [] }
  | dchunk (hop : i.op = .dchunk) (hst : ch.st = .opened) (hpend : ch.pend = []) {bytes : List Byte}
      (hdec : decodeBy i.engine p = .ok bytes) : DecUpdate i p ch { ch with pend := bytes }
  | dchunkError (hop : i.op = .dchunk) (hst : ch.st = .opened) {err : ErrorValue}
      (hdec : decodeBy i.engine p = .error err) : DecUpdate i p ch { st := .failed err, pend := [] }
  | dread (hop : i.op = .dread) (hst : ch.st = .opened ∨ ch.st = .eof) :
      DecUpdate i p ch { ch with pend := ch.pend.drop i.len.toNat }
  | deof (hop : i.op = .deof) (hst : ch.st = .opened) : DecUpdate i p ch { ch with st := .eof }
  | dfail (hop : i.op = .dfail) (hst : ch.st = .opened ∨ ch.st = .eof) :
      DecUpdate i p ch
        { st := .failed { kind := .upstream, pos := 0, aux := i.len.setWidth 32 }, pend := [] }

/-- What the command `i` with the payload `p` can have done to `s` before its `Finish`: bytes appended to OUT,
with at most one channel record updated. -/
inductive Worked (i : Instr) (s : State) (p : List Byte) : State → Prop
  | emitted (bytes : List Byte) : Worked i s p (s.emit bytes)
  | encUpdated {ch : EncChannel} (h : EncUpdate i p (s.enc.get i.engine) ch) (bytes : List Byte) :
      Worked i s p ((s.setEnc i.engine ch).emit bytes)
  | decUpdated {ch : DecChannel} (h : DecUpdate i p (s.dec.get i.engine) ch) (bytes : List Byte) :
      Worked i s p ((s.setDec i.engine ch).emit bytes)

/-- `t` is `u` after one of the three forms of `Finish` for the command `c` (R32). -/
inductive FinishOf (u : State) (c : CmdId) : State → Prop
  | ok (n : Nat) : FinishOf u c (u.finishOk c n)
  | bare {r : Result} (hr : r ≠ .error) (hok : r ≠ .ok) : FinishOf u c (u.finishBare c r)
  | error (err : ErrorValue) : FinishOf u c (u.finishError c err)

/-- `t` is what the command `i` with the payload `p` can make of `s`, ended by a `Finish` for `c`. -/
def Completes (i : Instr) (c : CmdId) (s : State) (p : List Byte) (t : State) : Prop :=
  ∃ u, Worked i s p u ∧ FinishOf u c t

/-! Each effect is of this form. -/

/-- Nothing emitted leaves the state as it is. -/
theorem State.emit_nil (s : State) : s.emit [] = s := by
  rw [State.emit, List.append_nil]

section Effect

variable {i : Instr} {s : State} {p : List Byte} {c : CmdId}

theorem Worked.refl : Worked i s p s := by
  simpa only [State.emit_nil] using Worked.emitted (i := i) (s := s) (p := p) []

theorem Worked.setEnc {ch : EncChannel} (h : EncUpdate i p (s.enc.get i.engine) ch) :
    Worked i s p (s.setEnc i.engine ch) := by
  simpa only [State.emit_nil] using Worked.encUpdated h []

theorem Worked.setDec {ch : DecChannel} (h : DecUpdate i p (s.dec.get i.engine) ch) :
    Worked i s p (s.setDec i.engine ch) := by
  simpa only [State.emit_nil] using Worked.decUpdated h []

theorem completes_finishError (err : ErrorValue) : Completes i c s p (s.finishError c err) :=
  ⟨s, .refl, .error err⟩

theorem completes_finishBare {r : Result} (hr : r ≠ .error) (hok : r ≠ .ok) :
    Completes i c s p (s.finishBare c r) :=
  ⟨s, .refl, .bare hr hok⟩

theorem completes_deliver (bytes : List Byte) : Completes i c s p (s.deliver c bytes) :=
  ⟨s.emit bytes, .emitted bytes, .ok _⟩

/-- Behind `CheckEnc`, only the command's own work on an OPEN channel can do more than report. -/
theorem completes_checkEnc {e : Engine} {work : EncChannel → State}
    (h : (s.enc.get e).st = .opened → Completes i c s p (work (s.enc.get e))) :
    Completes i c s p (checkEnc c e s work) := by
  obtain ⟨err, -, heq⟩ | ⟨-, heq⟩ | ⟨hst, heq⟩ := checkEnc_cases c e s work <;> rw [heq]
  · exact completes_finishError err
  · exact completes_finishBare (by decide) (by decide)
  · exact h hst

/-- Behind `CheckDec`, only the command's own work on an admitted channel can do more than report. -/
theorem completes_checkDec {e : Engine} {eofOk : Bool} {work : DecChannel → State}
    (h : (s.dec.get e).st = .opened ∨ ((s.dec.get e).st = .eof ∧ eofOk = true) →
      Completes i c s p (work (s.dec.get e))) : Completes i c s p (checkDec c e eofOk s work) := by
  obtain ⟨err, -, heq⟩ | ⟨-, heq⟩ | ⟨hst, heq⟩ := checkDec_cases c e eofOk s work <;> rw [heq]
  · exact completes_finishError err
  · exact completes_finishBare (by decide) (by decide)
  · exact h hst

theorem completes_decodeWhole (e : Engine) (r : Except ErrorValue (List Byte)) :
    Completes i (cmdId e .dec) s p (decodeWhole e r s) := by
  obtain ⟨err, -, heq⟩ | ⟨bytes, -, heq⟩ := decodeWhole_cases e r s <;> rw [heq]
  · exact completes_finishError err
  · exact completes_deliver bytes

theorem completes_chunkChannel (hop : i.op = .dchunk) :
    Completes i (cmdId i.engine .dchunk) s p (chunkChannel i.engine (decodeBy i.engine p) s) := by
  obtain ⟨err, -, heq⟩ | ⟨-, heq⟩ | ⟨hst, hpend, ⟨err, hdec, heq⟩ | ⟨bytes, hdec, heq⟩⟩ :=
    chunkChannel_cases i.engine (decodeBy i.engine p) s <;> rw [heq]
  · exact completes_finishError err
  · exact completes_finishBare (by decide) (by decide)
  · exact ⟨_, .setDec (.dchunkError hop hst hdec), .error err⟩
  · exact ⟨_, .setDec (.dchunk hop hst hpend hdec), .ok _⟩

theorem completes_readPending (hop : i.op = .dread) :
    Completes i (cmdId i.engine .dread) s p (readPending i.engine i.len s) := by
  refine completes_checkDec fun hst => ?_
  split
  · exact ⟨_, .decUpdated (.dread hop (hst.imp_right And.left)) _, .ok _⟩
  · split
    · exact completes_finishBare (by decide) (by decide)
    · exact completes_finishBare (by decide) (by decide)

variable (i s p)

/-- Everything a command can do. -/
theorem completes_effect : Completes i (cmdIdOf i) s p (effect i s p) := by
  unfold effect cmdIdOf
  cases hop : i.op with
  | enc => exact completes_deliver _
  | dec => exact completes_decodeWhole _ _
  | eopen => exact ⟨_, .setEnc (.eopen hop), .ok 0⟩
  | efeed => exact completes_checkEnc fun hst => ⟨_, .encUpdated (.efeed hop hst) _, .ok _⟩
  | eclose => exact completes_checkEnc fun hst => ⟨_, .encUpdated (.eclose hop hst) _, .ok _⟩
  | efail => exact completes_checkEnc fun hst => ⟨_, .setEnc (.efail hop hst), .error _⟩
  | dopen => exact ⟨_, .setDec (.dopen hop), .ok 0⟩
  | dchunk => exact completes_chunkChannel hop
  | dread => exact completes_readPending hop
  | deof => exact completes_checkDec fun hst => ⟨_, .setDec (.deof hop (by simpa using hst)), .ok 0⟩
  | dfail => exact completes_checkDec fun hst => ⟨_, .setDec (.dfail hop (hst.imp_right And.left)), .error _⟩

end Effect

/-- A command that completes has done what `Completes` says with the bytes on the data-in port. -/
theorem completes_of_exec {i : Instr} {s t : State} (h : exec i s = .next t) :
    Completes i (cmdIdOf i) s s.dataIn t := by
  obtain ⟨-, rfl⟩ := exec_eq_next.1 h
  exact completes_effect i s s.dataIn

/-! What `Finish` and the work before it leave alone. -/

section Frame

variable {i : Instr} {s t u : State} {p : List Byte} {c : CmdId}

/-- `Finish` writes the result registers and takes the host's action off the queue. -/
theorem FinishOf.frame (h : FinishOf u c t) : OnlyReported u t := by
  cases h <;> exact u.finish_onlyReported c _ _ _ _ _

theorem Worked.hostQueue (h : Worked i s p u) : u.hostQueue = s.hostQueue := by
  cases h <;> rfl

theorem Worked.out (h : Worked i s p u) : ∃ o, u.out = s.out ++ o := by
  cases h <;> exact ⟨_, rfl⟩

theorem Completes.hostQueue (h : Completes i c s p t) : t.hostQueue = s.hostQueue.tail := by
  obtain ⟨u, hwork, hfin⟩ := h
  rw [hfin.frame.consumed.1, hwork.hostQueue]

theorem Completes.out (h : Completes i c s p t) : ∃ o, t.out = s.out ++ o := by
  obtain ⟨u, hwork, hfin⟩ := h
  rw [hfin.frame.out]
  exact hwork.out

/-- The encoder channels after a command: as they were, or that of its engine updated. -/
theorem Completes.enc (h : Completes i c s p t) :
    t.enc = s.enc ∨ ∃ ch, EncUpdate i p (s.enc.get i.engine) ch ∧ t.enc = s.enc.set i.engine ch := by
  obtain ⟨u, hwork, hfin⟩ := h
  rw [hfin.frame.enc]
  cases hwork with
  | emitted bytes => exact .inl rfl
  | encUpdated hch bytes => exact .inr ⟨_, hch, rfl⟩
  | decUpdated hch bytes => exact .inl rfl

/-- The decoder channels after a command: as they were, or that of its engine updated. -/
theorem Completes.dec (h : Completes i c s p t) :
    t.dec = s.dec ∨ ∃ ch, DecUpdate i p (s.dec.get i.engine) ch ∧ t.dec = s.dec.set i.engine ch := by
  obtain ⟨u, hwork, hfin⟩ := h
  rw [hfin.frame.dec]
  cases hwork with
  | emitted bytes => exact .inl rfl
  | encUpdated hch bytes => exact .inl rfl
  | decUpdated hch bytes => exact .inr ⟨_, hch, rfl⟩

/-- Every encoder channel after a command: as it was, or updated and that of the command's engine. -/
theorem Completes.enc_get (h : Completes i c s p t) (e : Engine) :
    t.enc.get e = s.enc.get e ∨ (e = i.engine ∧ EncUpdate i p (s.enc.get e) (t.enc.get e)) := by
  obtain heq | ⟨ch, hch, heq⟩ := h.enc <;> rw [heq]
  · exact .inl rfl
  · by_cases he : e = i.engine
    · subst he
      exact .inr ⟨rfl, by rwa [PerEngine.get_set_same]⟩
    · exact .inl (PerEngine.get_set_of_ne _ _ he)

/-- Every decoder channel after a command: as it was, or updated and that of the command's engine. -/
theorem Completes.dec_get (h : Completes i c s p t) (e : Engine) :
    t.dec.get e = s.dec.get e ∨ (e = i.engine ∧ DecUpdate i p (s.dec.get e) (t.dec.get e)) := by
  obtain heq | ⟨ch, hch, heq⟩ := h.dec <;> rw [heq]
  · exact .inl rfl
  · by_cases he : e = i.engine
    · subst he
      exact .inr ⟨rfl, by rwa [PerEngine.get_set_same]⟩
    · exact .inl (PerEngine.get_set_of_ne _ _ he)

end Frame

/-! Commands and the channels of the others (R114). -/

theorem EncUpdate.op_mem {i : Instr} {p : List Byte} {ch ch' : EncChannel} (h : EncUpdate i p ch ch') :
    i.op ∈ [Op.eopen, .efeed, .eclose, .efail] := by
  cases h <;> simp [*]

theorem DecUpdate.op_mem {i : Instr} {p : List Byte} {ch ch' : DecChannel} (h : DecUpdate i p ch ch') :
    i.op ∈ [Op.dopen, .dchunk, .dread, .deof, .dfail] := by
  cases h <;> simp [*]

/-- A command that is none of the encoder channel's keeps every encoder channel. -/
theorem Completes.enc_eq {i : Instr} {c : CmdId} {s t : State} {p : List Byte} (h : Completes i c s p t)
    (hop : i.op ∉ [Op.eopen, .efeed, .eclose, .efail]) : t.enc = s.enc :=
  h.enc.resolve_right fun ⟨_, hch, _⟩ => hop hch.op_mem

/-- A command that is none of the decoder channel's keeps every decoder channel. -/
theorem Completes.dec_eq {i : Instr} {c : CmdId} {s t : State} {p : List Byte} (h : Completes i c s p t)
    (hop : i.op ∉ [Op.dopen, .dchunk, .dread, .deof, .dfail]) : t.dec = s.dec :=
  h.dec.resolve_right fun ⟨_, hch, _⟩ => hop hch.op_mem

/-- The block with other channel records. -/
def State.withChannels (s : State) (enc : PerEngine EncChannel) (dec : PerEngine DecChannel) : State :=
  { s with enc := enc, dec := dec }

/-- ENC and DEC do the same whatever the channel records are. -/
theorem effect_withChannels {i : Instr} (hop : i.op ∈ [Op.enc, .dec]) (s : State) (p : List Byte)
    (enc : PerEngine EncChannel) (dec : PerEngine DecChannel) :
    effect i (s.withChannels enc dec) p = (effect i s p).withChannels enc dec := by
  simp only [List.mem_cons, List.not_mem_nil, or_false] at hop
  unfold effect
  obtain h | h := hop <;> rw [h]
  · rfl
  · cases decodeBy i.engine p <;> rfl

/-- Settles O43: the only update a command can make is of its own engine and direction, and the effects of ENC
and DEC do not mention the channels. -/
theorem commandsTouchOnlyTheirOwnChannel : Obligations.CommandsTouchOnlyTheirOwnChannel := by
  refine ⟨fun i s t hexec => ?_, fun i s t enc dec hop hexec => ?_⟩
  · have h := completes_of_exec hexec
    have disjoint : ∀ o : Op, (o ∈ [Op.enc, .dec] → o ∉ [Op.eopen, .efeed, .eclose, .efail] ∧
        o ∉ [Op.dopen, .dchunk, .dread, .deof, .dfail]) ∧
        (o ∈ [Op.eopen, .efeed, .eclose, .efail] → o ∉ [Op.dopen, .dchunk, .dread, .deof, .dfail]) := by
      intro o
      cases o <;> decide
    obtain ⟨hwhole, hdir⟩ := disjoint i.op
    exact ⟨fun hop => ⟨h.enc_eq (hwhole hop).1, h.dec_eq (hwhole hop).2⟩,
      fun hop => ⟨h.dec_eq (hdir hop), fun e he => (h.enc_get e).resolve_right fun hup => he hup.1⟩,
      fun hop => ⟨h.enc_eq fun henc => hdir henc hop,
        fun e he => (h.dec_get e).resolve_right fun hup => he hup.1⟩⟩
  · obtain ⟨hlen, rfl⟩ := exec_eq_next.1 hexec
    exact exec_eq_next.2 ⟨hlen, effect_withChannels hop s s.dataIn enc dec⟩

/-! How an encoder channel fails (R115). -/

/-- EFEED keeps the state of the channel. -/
theorem feedBy_st (e : Engine) (p : List Byte) (ch : EncChannel) : (feedBy e p ch).1.st = ch.st := by
  cases e <;> rfl

/-- The only update that makes an encoder channel FAILED is EFAIL's. -/
theorem EncUpdate.failed {i : Instr} {p : List Byte} {ch ch' : EncChannel} {err : ErrorValue}
    (h : EncUpdate i p ch ch') (hst : ch'.st = .failed err) :
    i.op = .efail ∧ err = { kind := .upstream, pos := 0, aux := i.len.setWidth 32 } := by
  cases h with
  | eopen _ => cases hst
  | efeed _ hopen => cases hopen.symm.trans ((feedBy_st _ _ _).symm.trans hst)
  | eclose _ _ => cases hst
  | efail hop _ => exact ⟨hop, (EncSt.failed.inj hst).symm⟩

/-- ENC, and EFEED and ECLOSE on an OPEN channel, report OK. -/
theorem statusResult_of_encode {i : Instr} {s t : State} (hexec : exec i s = .next t)
    (h : i.op = .enc ∨ (i.op ∈ [Op.efeed, .eclose] ∧ (s.enc.get i.engine).st = .opened)) :
    statusResult t.status = 0 := by
  have hpayload (hop : i.op.carriesPayload = true) := dataIn_length_of_exec hop hexec
  simp only [List.mem_cons, List.not_mem_nil, or_false] at h
  obtain hop | ⟨hop | hop, hst⟩ := h
  · obtain ⟨hrep, -⟩ := of_exec_eq_next (exec_of_enc hop (hpayload (by rw [hop]; rfl))) hexec
    exact hrep.result
  · obtain ⟨hrep, -⟩ := of_exec_eq_next (exec_of_efeed hop (hpayload (by rw [hop]; rfl)) hst) hexec
    exact hrep.result
  · have hdata : s.dataIn = [] := dataIn_eq_nil_of_exec (by rw [hop]; rfl) hexec
    obtain ⟨hrep, -⟩ := of_exec_eq_next (exec_of_eclose hop hdata hst) hexec
    exact hrep.result

/-- Settles O44: a channel that was not updated keeps its state, and of the updates only EFAIL's fails. -/
theorem encodersFailOnlyUpstream : Obligations.EncodersFailOnlyUpstream := by
  refine ⟨fun i s t e err hexec hst => ?_, fun i s t => statusResult_of_encode⟩
  obtain heq | ⟨he, hup⟩ := (completes_of_exec hexec).enc_get e
  · exact .inl (heq ▸ hst)
  · obtain ⟨hop, herr⟩ := hup.failed hst
    exact .inr ⟨hop, he.symm, herr⟩

/-! OUT (R52). -/

/-- The change `before` of the block does not reach what a command reads, and comes out as the change `after`
once the command has ended with its `Finish`. The queue is the one the command finds. -/
structure Commutes (before after : State → State) (queue : List HostAction) : Prop where
  enc    : ∀ u, (before u).enc = u.enc
  dec    : ∀ u, (before u).dec = u.dec
  setEnc : ∀ u e ch, (before u).setEnc e ch = before (u.setEnc e ch)
  setDec : ∀ u e ch, (before u).setDec e ch = before (u.setDec e ch)
  emit   : ∀ u bytes, (before u).emit bytes = before (u.emit bytes)
  finish : ∀ u, u.hostQueue = queue → ∀ c r kind pos aux n,
    (before u).finish c r kind pos aux n = after (u.finish c r kind pos aux n)

section Commutes

variable {before after : State → State} {s : State} (h : Commutes before after s.hostQueue)

include h

theorem Commutes.deliver {u : State} (hu : u.hostQueue = s.hostQueue) (c : CmdId) (bytes : List Byte) :
    (before u).deliver c bytes = after (u.deliver c bytes) := by
  rw [State.deliver, h.emit]
  exact h.finish (u.emit bytes) hu _ _ _ _ _ _

theorem Commutes.setEnc_finish (e : Engine) (ch : EncChannel) (c : CmdId) (r : Result) (kind : BitVec 4)
    (pos aux : Word) (n : Nat) :
    ((before s).setEnc e ch).finish c r kind pos aux n = after ((s.setEnc e ch).finish c r kind pos aux n) := by
  rw [h.setEnc]
  exact h.finish (s.setEnc e ch) rfl _ _ _ _ _ _

theorem Commutes.setDec_finish (e : Engine) (ch : DecChannel) (c : CmdId) (r : Result) (kind : BitVec 4)
    (pos aux : Word) (n : Nat) :
    ((before s).setDec e ch).finish c r kind pos aux n = after ((s.setDec e ch).finish c r kind pos aux n) := by
  rw [h.setDec]
  exact h.finish (s.setDec e ch) rfl _ _ _ _ _ _

theorem Commutes.setEnc_deliver (e : Engine) (ch : EncChannel) (c : CmdId) (bytes : List Byte) :
    ((before s).setEnc e ch).deliver c bytes = after ((s.setEnc e ch).deliver c bytes) := by
  rw [h.setEnc]
  exact h.deliver (u := s.setEnc e ch) rfl c bytes

theorem Commutes.setDec_deliver (e : Engine) (ch : DecChannel) (c : CmdId) (bytes : List Byte) :
    ((before s).setDec e ch).deliver c bytes = after ((s.setDec e ch).deliver c bytes) := by
  rw [h.setDec]
  exact h.deliver (u := s.setDec e ch) rfl c bytes

/-- `CheckEnc` commutes with the change when the command's own work does. -/
theorem Commutes.checkEnc {c : CmdId} {e : Engine} {work work' : EncChannel → State}
    (hwork : ∀ ch, work' ch = after (work ch)) :
    checkEnc c e (before s) work' = after (checkEnc c e s work) := by
  unfold Machine.checkEnc
  rw [h.enc]
  cases (s.enc.get e).st with
  | opened => exact hwork _
  | idle | closed | failed => exact h.finish s rfl _ _ _ _ _ _

/-- `CheckDec` commutes with the change when the command's own work does. -/
theorem Commutes.checkDec {c : CmdId} {e : Engine} {eofOk : Bool} {work work' : DecChannel → State}
    (hwork : ∀ ch, work' ch = after (work ch)) :
    checkDec c e eofOk (before s) work' = after (checkDec c e eofOk s work) := by
  unfold Machine.checkDec
  rw [h.dec]
  cases (s.dec.get e).st with
  | opened => exact hwork _
  | eof => cases eofOk with
    | false => exact h.finish s rfl _ _ _ _ _ _
    | true => exact hwork _
  | idle | failed => exact h.finish s rfl _ _ _ _ _ _

/-- Every command commutes with the change. -/
theorem Commutes.effect (i : Instr) (p : List Byte) : effect i (before s) p = after (effect i s p) := by
  unfold Machine.effect
  cases i.op with
  | enc => exact h.deliver rfl _ _
  | dec => cases decodeBy i.engine p with
    | error err => exact h.finish s rfl _ _ _ _ _ _
    | ok bytes => exact h.deliver rfl _ _
  | eopen => exact h.setEnc_finish _ _ _ _ _ _ _ _
  | efeed | eclose => exact h.checkEnc fun _ => h.setEnc_deliver _ _ _ _
  | efail => exact h.checkEnc fun _ => h.setEnc_finish _ _ _ _ _ _ _ _
  | dopen => exact h.setDec_finish _ _ _ _ _ _ _ _
  | dchunk =>
    refine h.checkDec fun ch => ?_
    split
    · exact h.finish s rfl _ _ _ _ _ _
    · cases decodeBy i.engine p <;> exact h.setDec_finish _ _ _ _ _ _ _ _
  | dread =>
    refine h.checkDec fun ch => ?_
    split
    · exact h.setDec_deliver _ _ _ _
    · split <;> exact h.finish s rfl _ _ _ _ _ _
  | deof | dfail => exact h.checkDec fun _ => h.setDec_finish _ _ _ _ _ _ _ _

end Commutes

/-- The block with more bytes in OUT, before those it holds. -/
def State.behind (earlier : List Byte) (s : State) : State :=
  { s with out := earlier ++ s.out }

/-- What is already in OUT does not reach a command. -/
theorem commutes_behind (earlier : List Byte) (queue : List HostAction) :
    Commutes (State.behind earlier) (State.behind earlier) queue where
  enc _ := rfl
  dec _ := rfl
  setEnc _ _ _ := rfl
  setDec _ _ _ := rfl
  emit u bytes := by simp only [State.behind, State.emit, List.append_assoc]
  finish _ _ _ _ _ _ _ _ := rfl

/-- The step of a drain (R52). -/
theorem step_drain {s : State} {count : Option Nat} {rest : List HostAction}
    (hq : s.hostQueue = .drain count :: rest) : step s = .next (drainOut count s) := by
  simp [step, serviceHost, hq, performAction]

/-- Settles O45: every command appends to OUT and does the same behind earlier bytes, and the drain takes from
the front. -/
theorem outIsAppendedAndDrainedInOrder : Obligations.OutIsAppendedAndDrainedInOrder := by
  refine ⟨fun i s t hexec => (completes_of_exec hexec).out, fun i s t earlier hexec => ?_,
    fun s n rest hq => ?_, fun s rest hq => ?_⟩
  · obtain ⟨hlen, rfl⟩ := exec_eq_next.1 hexec
    exact exec_eq_next.2 ⟨hlen, (commutes_behind earlier s.hostQueue).effect i s.dataIn⟩
  · exact ⟨_, step_drain hq, rfl, List.take_append_drop n s.out, rfl, rfl, rfl, rfl⟩
  · exact ⟨_, step_drain hq, congrArg Reply.bytes (List.take_length), List.drop_length⟩

end Sys2Proof.Machine
end

section
/-! PROOFS. The host's side of the block (20_memory.md rules R54 to R58, 60_exceptions.md rule R250): what a step
does with each host action (StepRunsTheDecodedCommand, ActionsThatAreNoTransactionAreRefused,
AdmittedActionsComplete, RegisterAccessSideEffects), the decoder channel registers (DecoderChannelRegisters),
everything a step that completes can do, and with it FailedChannelsStayFailed. -/

namespace Sys2Proof.Machine

/-! A command word written to CMD (R73, R75 to R77). -/

theorem runCommandWord_of_ok {w : Word} {i : Instr} (h : decodeWord w = .ok i) (s : State) :
    runCommandWord w s = exec i s := by
  simp only [runCommandWord, h]

/-- The payload length of a legal word is that of its command. -/
theorem payloadLength_of_decodeWord {w : Word} {i : Instr} (h : decodeWord w = .ok i) :
    payloadLength w = i.payloadBytes := by
  obtain ⟨-, -, hop, hlen⟩ := fields_of_decodeWord h
  rw [payloadLength, Instr.payloadBytes, hop, hlen]
  cases i.op <;> rfl

/-- With the payload length the word requires, the transaction completes and is done. -/
theorem runCommandWord_of_length {s : State} {w : Word} (h : s.dataIn.length = payloadLength w) :
    ∃ t, runCommandWord w s = .next t ∧ t.hostQueue = s.hostQueue.tail := by
  cases hw : decodeWord w with
  | error e => exact ⟨_, runCommandWord_of_error hw h, rfl⟩
  | ok i =>
    rw [runCommandWord_of_ok hw, exec_of_length (h.trans (payloadLength_of_decodeWord hw))]
    exact ⟨_, rfl, (completes_effect i s s.dataIn).hostQueue⟩

/-- With another payload length the transaction is refused (R250 (a)). -/
theorem runCommandWord_of_length_ne {s : State} {w : Word} (h : s.dataIn.length ≠ payloadLength w) :
    runCommandWord w s = .refused .payloadLength := by
  cases hw : decodeWord w with
  | error e =>
    simp only [runCommandWord, hw]
    exact onTransaction_of_length_ne h
  | ok i =>
    rw [runCommandWord_of_ok hw]
    exact exec_of_length_ne (payloadLength_of_decodeWord hw ▸ h)

/-- A command word that completes is a command, or one `Finish(ILLEGAL)`. -/
theorem runCommandWord_cases {s t : State} {w : Word} (h : runCommandWord w s = .next t) :
    (∃ i, decodeWord w = .ok i ∧ exec i s = .next t) ∨ t = s.finishBare (cmdIdOfWord w) .illegal := by
  cases hw : decodeWord w with
  | ok i => exact .inl ⟨i, rfl, (runCommandWord_of_ok hw s).symm.trans h⟩
  | error e =>
    simp only [runCommandWord, hw] at h
    exact .inr (onTransaction_eq_next.1 h).2.symm

/-- Settles O6: the step of a transaction runs its word, and the command ends with the `Finish` that takes the
action off the queue. -/
theorem stepRunsTheDecodedCommand : Obligations.StepRunsTheDecodedCommand := by
  intro s w payload rest i hq hw
  refine ⟨dataIn_command hq, (step_command hq).trans (runCommandWord_of_ok hw s), fun t hexec => ?_⟩
  rw [(completes_of_exec hexec).hostQueue, hq, List.tail_cons]

/-! The steps of the host actions. -/

section Steps

variable {s : State} {addr width : Nat} {value : Word} {rest : List HostAction}

theorem step_read (hq : s.hostQueue = .read addr width :: rest) : step s = readAccess addr width s := by
  simp [step, serviceHost, hq, performAction]

theorem step_write (hq : s.hostQueue = .write addr width value :: rest) :
    step s = writeAccess addr width value s := by
  simp [step, serviceHost, hq, performAction]

theorem step_otherHost (hq : s.hostQueue = .otherHost :: rest) : step s = .refused .secondHost := by
  simp [step, serviceHost, hq, performAction]

/-- With no host action pending the block is idle (R265). -/
theorem step_idle (hq : s.hostQueue = []) : step s = .next s := by
  simp [step, serviceHost, hq]

theorem readAccess_of_some {o : Nat} (h : registerOffset? addr width = some o) :
    readAccess addr width s = .next (s.complete (.word (s.readRegister o))) := by
  simp only [readAccess, h]

theorem readAccess_of_none (h : registerOffset? addr width = none) :
    readAccess addr width s = .refused .registerAccess := by
  simp only [readAccess, h]

theorem writeAccess_of_some {o : Nat} (h : registerOffset? addr width = some o) :
    writeAccess addr width value s =
      if o = 0 then runCommandWord value s else .next (s.complete s.reply) := by
  simp only [writeAccess, h]

theorem writeAccess_of_none (h : registerOffset? addr width = none) :
    writeAccess addr width value s = .refused .registerAccess := by
  simp only [writeAccess, h]

/-- No register access is admitted elsewhere than at an aligned 32-bit place of the window (R54, R58). -/
theorem registerOffset?_eq_none
    (h : width ≠ 4 ∨ addr < Config.rcbBase ∨ addr ≥ Config.rcbBase + 64 ∨ (addr - Config.rcbBase) % 4 ≠ 0) :
    registerOffset? addr width = none := by
  rw [Option.eq_none_iff_forall_ne_some]
  intro o ho
  obtain ⟨rfl, rfl, hlt, h4⟩ := registerOffset?_eq_some.1 ho
  omega

/-- CMD is at the base of the window. -/
theorem registerOffset?_base : registerOffset? Config.rcbBase 4 = some 0 :=
  registerOffset?_of_offset (o := 0) (by decide) (by decide)

end Steps

/-- Settles O8: the payload check stands before the work of every word, and an access that is not admitted has
no offset. -/
theorem actionsThatAreNoTransactionAreRefused : Obligations.ActionsThatAreNoTransactionAreRefused := by
  refine ⟨fun s w payload rest hq hlen => ?_, fun s addr width rest hq h => ?_,
    fun s addr width value rest hq h => ?_, fun s rest => step_otherHost⟩
  · rw [step_command hq]
    exact runCommandWord_of_length_ne (by rwa [dataIn_command hq])
  · rw [step_read hq, readAccess_of_none (registerOffset?_eq_none h)]
  · rw [step_write hq, writeAccess_of_none (registerOffset?_eq_none h)]

/-- Settles O9, by the kind of the action. -/
theorem admittedActionsComplete : Obligations.AdmittedActionsComplete := by
  refine ⟨fun s => step_idle, fun s a rest hq hadm => ?_⟩
  suffices h : ∃ t, step s = .next t ∧ t.hostQueue = s.hostQueue.tail by
    simpa only [hq, List.tail_cons] using h
  cases a with
  | command w payload =>
    rw [step_command hq]
    exact runCommandWord_of_length (by rw [dataIn_command hq]; exact hadm)
  | read addr width =>
    obtain ⟨o, ho⟩ := hadm
    exact ⟨_, (step_read hq).trans (readAccess_of_some ho), rfl⟩
  | write addr width value =>
    obtain ⟨o, ho, hcmd⟩ := hadm
    rw [step_write hq, writeAccess_of_some ho]
    split
    next h0 =>
      have hdata : s.dataIn = [] := by simp [State.dataIn, hq]
      exact runCommandWord_of_length (by rw [hdata, hcmd h0]; rfl)
    next => exact ⟨_, rfl, rfl⟩
  | drain count => exact ⟨_, step_drain hq, rfl⟩
  | reset => exact ⟨_, step_reset hq, by rw [hq, List.tail_cons]⟩
  | otherHost => exact hadm.elim

/-! Everything a step that completes can do. -/

/-- The host action writes the word `w` to CMD (R31). -/
def HostAction.issues : HostAction → Word → Prop
  | .command w _, v => v = w
  | .write addr width w, v => registerOffset? addr width = some 0 ∧ v = w
  | .read _ _, _ => False
  | .drain _, _ => False
  | .reset, _ => False
  | .otherHost, _ => False

theorem HostAction.spells_of_issues {a : HostAction} {w : Word} {i : Instr} (h : a.issues w)
    (hw : decodeWord w = .ok i) : a.spells i := by
  cases a with
  | command v payload => exact h ▸ hw
  | write addr width v => exact ⟨h.1, h.2 ▸ hw⟩
  | read | drain | reset | otherHost => exact h.elim

/-- The state `s` with the host's side, and OUT, changed: the channels and the result registers are as they
were. -/
def State.withHostSide (s : State) (out : List Byte) (queue : List HostAction) (reply : Reply) : State :=
  { s with out := out, hostQueue := queue, reply := reply }

/-- A step that completes idles, writes a word to CMD, changes the host's side and OUT alone, or resets. -/
theorem step_cases {s t : State} (h : step s = .next t) :
    (s.hostQueue = [] ∧ t = s) ∨ ∃ a rest, s.hostQueue = a :: rest ∧
      ((∃ w, a.issues w ∧ runCommandWord w s = .next t) ∨
        (∃ out reply, t = s.withHostSide out rest reply) ∨
        (a = .reset ∧ t = { State.reset with hostQueue := rest, reply := s.reply })) := by
  cases hq : s.hostQueue with
  | nil => exact .inl ⟨rfl, (Host.Outcome.next.inj ((step_idle hq).symm.trans h)).symm⟩
  | cons a rest =>
    have htail : s.hostQueue.tail = rest := by rw [hq, List.tail_cons]
    refine .inr ⟨a, rest, rfl, ?_⟩
    cases a with
    | command w payload => exact .inl ⟨w, rfl, (step_command hq).symm.trans h⟩
    | read addr width =>
      rw [step_read hq] at h
      cases ho : registerOffset? addr width with
      | none => cases (readAccess_of_none ho).symm.trans h
      | some o =>
        cases (readAccess_of_some ho).symm.trans h
        exact .inr (.inl ⟨s.out, _, by rw [← htail]; rfl⟩)
    | write addr width value =>
      rw [step_write hq] at h
      cases ho : registerOffset? addr width with
      | none => cases (writeAccess_of_none ho).symm.trans h
      | some o =>
        rw [writeAccess_of_some ho] at h
        split at h
        next h0 => exact .inl ⟨value, ⟨h0 ▸ ho, rfl⟩, h⟩
        next =>
          cases h
          exact .inr (.inl ⟨s.out, s.reply, by rw [← htail]; rfl⟩)
    | drain count =>
      cases (step_drain hq).symm.trans h
      exact .inr (.inl ⟨_, _, by rw [← htail]; rfl⟩)
    | reset => exact .inr (.inr ⟨rfl, (Host.Outcome.next.inj ((step_reset hq).symm.trans h)).symm⟩)
    | otherHost => cases (step_otherHost hq).symm.trans h

/-! The side effects of register accesses (R55). -/

/-- No register shows the host's side or OUT. -/
theorem readRegister_withHostSide (s : State) (out : List Byte) (queue : List HostAction) (reply : Reply)
    (o : Nat) : (s.withHostSide out queue reply).readRegister o = s.readRegister o := rfl

/-- A read, a drain and a write past CMD write no word to CMD and are no reset. -/
theorem not_issues_of_access {a : HostAction}
    (h : (∃ addr width, a = .read addr width) ∨ (∃ count, a = .drain count) ∨
      ∃ o value, 0 < o ∧ a = .write (Config.rcbBase + o) 4 value) :
    (∀ w, ¬ a.issues w) ∧ a ≠ .reset := by
  obtain ⟨addr, width, rfl⟩ | ⟨count, rfl⟩ | ⟨o, value, hpos, rfl⟩ := h
  · exact ⟨fun _ => id, nofun⟩
  · exact ⟨fun _ => id, nofun⟩
  · refine ⟨fun w ⟨ho, _⟩ => ?_, nofun⟩
    obtain ⟨-, haddr, -, -⟩ := registerOffset?_eq_some.1 ho
    omega

/-- The block with other host actions pending. -/
def State.requeued (queue : List HostAction) (s : State) : State :=
  { s with hostQueue := queue }

/-- `Finish` takes the first action off the queue, so which one that was does not reach a command. -/
theorem commutes_requeued {queue queue' : List HostAction} (h : queue.tail = queue'.tail) :
    Commutes (State.requeued queue) id queue' where
  enc _ := rfl
  dec _ := rfl
  setEnc _ _ _ := rfl
  setDec _ _ _ := rfl
  emit _ _ := rfl
  finish u hu c r kind pos aux n := by simp only [State.requeued, State.finish, h, hu, id_eq]

/-- A word written to CMD does the same whichever action carried it, with the same bytes on the data-in
port. -/
theorem runCommandWord_requeued {s : State} {queue : List HostAction} (h : queue.tail = s.hostQueue.tail)
    (hdata : (s.requeued queue).dataIn = s.dataIn) (w : Word) :
    runCommandWord w (s.requeued queue) = runCommandWord w s := by
  have hcommutes := commutes_requeued h
  have hfinish := hcommutes.finish s rfl (cmdIdOfWord w) .illegal 0 0 0 0
  have heffect (i : Instr) := hcommutes.effect i s.dataIn
  unfold runCommandWord
  cases decodeWord w with
  | error e => simp only [answerIllegal, onTransaction, hdata, State.finishBare, hfinish, id_eq]
  | ok i => simp only [exec_eq_onTransaction, onTransaction, hdata, heffect, id_eq]

/-- Settles O10: only a word written to CMD and a reset reach the block's registers, and a write to CMD runs
its word on an empty data-in port, as the transaction without a payload does. -/
theorem registerAccessSideEffects : Obligations.RegisterAccessSideEffects := by
  refine ⟨fun s o rest ho h4 => step_read_of_offset ho h4, fun s t a rest hq hacc hstep o => ?_,
    fun s o value rest hpos ho h4 => step_write_of_offset hpos ho h4, fun s w rest hq => ?_⟩
  · obtain ⟨hno, hreset⟩ := not_issues_of_access hacc
    obtain ⟨hnil, -⟩ | ⟨a', rest', hq', hcases⟩ := step_cases hstep
    · cases hq.symm.trans hnil
    · cases hq.symm.trans hq'
      obtain ⟨w, hw, -⟩ | ⟨out, reply, rfl⟩ | ⟨ha, -⟩ := hcases
      · exact absurd hw (hno w)
      · exact readRegister_withHostSide s out rest reply o
      · exact absurd ha hreset
  · have hstep : step (s.requeued (.command w [] :: rest)) = runCommandWord w (s.requeued _) :=
      step_command rfl
    have hdata : s.dataIn = [] := by simp [State.dataIn, hq]
    rw [step_write hq, writeAccess_of_some registerOffset?_base, if_pos rfl]
    exact (hstep.trans (runCommandWord_requeued (by rw [hq]; rfl) (by rw [hdata]; rfl) w)).symm

/-! The decoder channel registers (R37). -/

theorem viewDec_fields (c : DecChannel) :
    (viewDec c).extractLsb' 0 2 = c.st.code ∧ (viewDec c).extractLsb' 2 2 = 0 ∧
    (viewDec c).extractLsb' 4 28 = pendingCount c := by
  simp [viewDec, BitVec.extractLsb'_or, extractLsb'_place_same, extractLsb'_place_disjoint]

/-- The largest pending buffer of any engine is that of base-85. -/
theorem pendLimit_le (e : Engine) : pendLimit e ≤ 4 * (2 ^ 24 - 1) := by
  cases e <;> decide

/-- PLEN is the pending buffer's length within the largest limit. -/
theorem pendingCount_toNat {c : DecChannel} (h : c.pend.length ≤ 4 * (2 ^ 24 - 1)) :
    (pendingCount c).toNat = c.pend.length := by
  rw [pendingCount, BitVec.toNat_ofNat]
  omega

/-- The register of an engine's decoder channel shows that channel. -/
theorem readRegister_dec (s : State) {e : Engine} {o : Nat}
    (h : (e, o) ∈ [(Engine.b45, 0x30), (Engine.b85, 0x34), (Engine.b91, 0x38)]) :
    s.readRegister o = viewDec (s.dec.get e) := by
  simp only [List.mem_cons, List.not_mem_nil, or_false, Prod.mk.injEq] at h
  obtain ⟨rfl, rfl⟩ | ⟨rfl, rfl⟩ | ⟨rfl, rfl⟩ := h <;> rfl

/-- Settles O13, from the fields of the view; the pending limit makes PLEN exact. -/
theorem decoderChannelRegisters : Obligations.DecoderChannelRegisters := by
  intro s ⟨e, o⟩ hmem hinv
  have hfits := hinv.pendFits.trans (pendLimit_le e)
  obtain ⟨hst, hgap, hplen⟩ := viewDec_fields (s.dec.get e)
  rw [readRegister_dec s hmem]
  exact ⟨hfits, hst, hgap, hplen ▸ pendingCount_toNat hfits⟩

/-! FAILED channels (R112). -/

/-- Of the updates, only EOPEN's is made to a FAILED encoder channel. -/
theorem EncUpdate.op_of_failed {i : Instr} {p : List Byte} {ch ch' : EncChannel} {err : ErrorValue}
    (h : EncUpdate i p ch ch') (hst : ch.st = .failed err) : i.op = .eopen := by
  cases h with
  | eopen hop => exact hop
  | efeed _ hopen | eclose _ hopen | efail _ hopen => cases hst.symm.trans hopen

/-- Of the updates, only DOPEN's is made to a FAILED decoder channel. -/
theorem DecUpdate.op_of_failed {i : Instr} {p : List Byte} {ch ch' : DecChannel} {err : ErrorValue}
    (h : DecUpdate i p ch ch') (hst : ch.st = .failed err) : i.op = .dopen := by
  cases h with
  | dopen hop => exact hop
  | dchunk _ hopen | dchunkError _ hopen | deof _ hopen => cases hst.symm.trans hopen
  | dread _ hadm | dfail _ hadm =>
    obtain hopen | heof := hadm
    · cases hst.symm.trans hopen
    · cases hst.symm.trans heof

/-- A step that is no reset keeps the channels, or runs a command on the first action's word. -/
theorem channels_of_step {s t : State} (h : step s = .next t) :
    (t.enc = s.enc ∧ t.dec = s.dec) ∨ ∃ a rest, s.hostQueue = a :: rest ∧
      (a = .reset ∨ ∃ i, a.spells i ∧ Completes i (cmdIdOf i) s s.dataIn t) := by
  obtain ⟨-, rfl⟩ | ⟨a, rest, hq, ⟨w, hw, hrun⟩ | ⟨out, reply, rfl⟩ | ⟨ha, -⟩⟩ := step_cases h
  · exact .inl ⟨rfl, rfl⟩
  · obtain ⟨i, hi, hexec⟩ | rfl := runCommandWord_cases hrun
    · exact .inr ⟨a, rest, hq, .inr ⟨i, HostAction.spells_of_issues hw hi, completes_of_exec hexec⟩⟩
    · exact .inl ⟨rfl, rfl⟩
  · exact .inl ⟨rfl, rfl⟩
  · exact .inr ⟨a, rest, hq, .inl ha⟩

/-- Settles O42: no update but EOPEN's or DOPEN's is made to a FAILED channel, and the channel checks answer
every other command with its error. -/
theorem failedChannelsStayFailed : Obligations.FailedChannelsStayFailed := by
  refine ⟨fun s t e err hstep hst => ?_, fun s t e err hstep hst => ?_, fun i s err hlen h => ?_⟩
  · obtain ⟨henc, -⟩ | ⟨a, rest, hq, ha | ⟨i, hspells, hdone⟩⟩ := channels_of_step hstep
    · exact .inl (by rw [henc])
    · exact .inr ⟨a, rest, hq, .inl ha⟩
    · obtain heq | ⟨rfl, hup⟩ := hdone.enc_get e
      · exact .inl heq
      · exact .inr ⟨a, rest, hq, .inr ⟨i, hspells, hup.op_of_failed hst, rfl⟩⟩
  · obtain ⟨-, hdec⟩ | ⟨a, rest, hq, ha | ⟨i, hspells, hdone⟩⟩ := channels_of_step hstep
    · exact .inl (by rw [hdec])
    · exact .inr ⟨a, rest, hq, .inl ha⟩
    · obtain heq | ⟨rfl, hup⟩ := hdone.dec_get e
      · exact .inl heq
      · exact .inr ⟨a, rest, hq, .inr ⟨i, hspells, hup.op_of_failed hst, rfl⟩⟩
  · obtain ⟨hop, hst⟩ | ⟨hop, hst⟩ := h
    · exact (encoderChannelCheck i s hop hlen).1 err hst
    · exact (decoderChannelCheck i s hop hlen).1 err hst

end Sys2Proof.Machine
end

section
/-! PROOFS. The base-45 conversions (41_base45.md): digits and alphabet (Base45DigitsOfPairAndSingle), lengths
(Base45EncodingLengthAndFeeds, Base45DecodingLength), and decoding as the inverse of encoding (Base45RoundTrip),
which goes group by group because a text split at a group boundary decodes piecewise. -/

namespace Sys2Proof.Machine

/-! Results of the decoders. -/

/-- A mapped result succeeds exactly where the result does. -/
theorem except_map_eq_ok {ε α β : Type} {f : α → β} {r : Except ε α} {b : β} :
    r.map f = .ok b ↔ ∃ a, r = .ok a ∧ f a = b := by
  cases r <;> simp [Except.map]

/-- A DCHUNK that reports OK has put the decoding of its payload into the pending buffer. -/
theorem decodeBy_of_dchunk {i : Instr} {s t : State} (hop : i.op = .dchunk) (hexec : exec i s = .next t)
    (hok : statusResult t.status = 0) :
    s.dataIn.length = i.len.toNat ∧ decodeBy i.engine s.dataIn = .ok (t.dec.get i.engine).pend := by
  refine ⟨dataIn_length_of_exec (by rw [hop]; rfl) hexec, ?_⟩
  obtain ⟨-, rfl⟩ := exec_eq_next.1 hexec
  simp only [effect, hop] at hok ⊢
  obtain ⟨err, -, heq⟩ | ⟨-, heq⟩ | ⟨-, -, ⟨err, -, heq⟩ | ⟨bytes, hdec, heq⟩⟩ :=
    chunkChannel_cases i.engine (decodeBy i.engine s.dataIn) s <;> rw [heq] at hok ⊢
  · cases ((State.finish_reports _ _ _ _ _ _ _).result.symm.trans hok)
  · cases ((State.finish_reports _ _ _ _ _ _ _).result.symm.trans hok)
  · cases ((State.finish_reports _ _ _ _ _ _ _).result.symm.trans hok)
  · rw [hdec]
    simp [State.finishOk]

/-! The alphabet (R140, R141). -/

theorem alph45_nodup : alph45.Nodup := by decide

theorem charOf_mem {alphabet : List Byte} {v : Nat} (h : v < alphabet.length) :
    charOf alphabet v ∈ alphabet := by
  rw [charOf, List.getD_eq_getElem _ _ h]
  exact List.getElem_mem h

/-- Every character of an alphabet is the one at some value. -/
theorem exists_charOf_of_mem {alphabet : List Byte} {c : Byte} (h : c ∈ alphabet) :
    ∃ v < alphabet.length, charOf alphabet v = c := by
  obtain ⟨v, hv, rfl⟩ := List.mem_iff_getElem.1 h
  exact ⟨v, hv, List.getD_eq_getElem _ _ hv⟩

theorem charOf45_mem {v : Nat} (h : v < 45) : charOf alph45 v ∈ alph45 :=
  charOf_mem h

theorem idxOf_charOf45 {v : Nat} (h : v < 45) : alph45.idxOf (charOf alph45 v) = v := by
  have hval := val45_of_mem (charOf45_mem h)
  rw [val45, valueOf?_charOf alph45_nodup h] at hval
  exact (Option.some.inj hval).symm

/-! The characters of a pair and of a single byte (R142, R143). -/

theorem enc45Pair_digits (b0 b1 : Byte) : ∃ c d v, c < 45 ∧ d < 45 ∧ v ≤ 32 ∧
    b0.toNat * 256 + b1.toNat = c + d * 45 + v * 2025 ∧
    enc45Pair b0 b1 = [charOf alph45 c, charOf alph45 d, charOf alph45 v] := by
  have h0 := b0.isLt
  have h1 := b1.isLt
  refine ⟨_, _, _, ?_, ?_, ?_, ?_, rfl⟩ <;> omega

theorem enc45Single_digits (b0 : Byte) : ∃ c d, c < 45 ∧ d ≤ 5 ∧ b0.toNat = c + d * 45 ∧
    enc45Single b0 = [charOf alph45 c, charOf alph45 d] := by
  have h0 := b0.isLt
  refine ⟨_, _, ?_, ?_, ?_, rfl⟩ <;> omega

/-- Settles O48: the alphabet value by value, and the divisions of R142 and R143 as digits. -/
theorem base45DigitsOfPairAndSingle : Obligations.Base45DigitsOfPairAndSingle := by
  refine ⟨by decide, by decide, by decide, fun v hv => valueOf?_charOf alph45_nodup hv, fun c hc => ?_,
    enc45Pair_digits, by decide, enc45Single_digits, by decide⟩
  refine val45_of_notMem fun hmem => ?_
  obtain ⟨v, hv, hchar⟩ := exists_charOf_of_mem hmem
  exact hc v hv hchar

/-! The encoder, group by group (R144 to R146). -/

theorem enc45_pair_append (b0 b1 : Byte) (rest : List Byte) :
    enc45 (b0 :: b1 :: rest) = enc45Pair b0 b1 ++ enc45 rest := by
  simp [enc45, feed45, encodePairs45]

theorem enc45_single (b0 : Byte) : enc45 [b0] = enc45Single b0 :=
  enc45_append_single (front := []) b0 rfl

@[simp] theorem enc45Pair_length (b0 b1 : Byte) : (enc45Pair b0 b1).length = 3 := rfl

@[simp] theorem enc45Single_length (b0 : Byte) : (enc45Single b0).length = 2 := rfl

theorem enc45_length : ∀ b : List Byte, (enc45 b).length = 3 * (b.length / 2) + 2 * (b.length % 2)
  | [] => rfl
  | [b0] => by simp [enc45_single]
  | b0 :: b1 :: rest => by
    rw [enc45_pair_append, List.length_append, enc45Pair_length, enc45_length rest, List.length_cons,
      List.length_cons]
    omega

/-- Settles O49: the length goes pair by pair, and a second feed goes on from the residual of the first. -/
theorem base45EncodingLengthAndFeeds : Obligations.Base45EncodingLengthAndFeeds := by
  refine ⟨fun s => ⟨rfl, enc45_length s⟩, rfl, fun res p1 p2 _ => ?_⟩
  rw [feed45, ← List.append_assoc, encodePairs45_append]
  rfl

/-! The decoder on a text it accepts (R147). -/

/-- A text that decodes passed both checks, and its groups decode. -/
theorem dec45_eq_ok {t bytes : List Byte} (h : dec45 t = .ok bytes) :
    t.length % 3 ≠ 1 ∧ (∀ c ∈ t, c ∈ alph45) ∧ decodeGroups45 0 (t.map alph45.idxOf) = .ok bytes := by
  have hlen : t.length % 3 ≠ 1 := fun hlen => by cases h.symm.trans (dec45_of_length hlen)
  have hlegal : ∀ c ∈ t, c ∈ alph45 := by_contra fun hillegal => by
    obtain ⟨p, c, hget, hc, hmin⟩ := exists_first_illegal hillegal
    cases h.symm.trans (dec45_of_illegal hlen hget hc hmin)
  exact ⟨hlen, hlegal, (dec45_of_legal hlen hlegal).symm.trans h⟩

/-- A full group that decodes gives two bytes, before those of the rest. -/
theorem decodeGroups45_full_eq_ok {g v0 v1 v2 : Nat} {rest : List Nat} {bytes : List Byte}
    (h : decodeGroups45 g (v0 :: v1 :: v2 :: rest) = .ok bytes) :
    ∃ b0 b1 more, bytes = b0 :: b1 :: more ∧ decodeGroups45 (g + 1) rest = .ok more ∧
      ∀ g' rest' more', decodeGroups45 (g' + 1) rest' = .ok more' →
        decodeGroups45 g' (v0 :: v1 :: v2 :: rest') = .ok (b0 :: b1 :: more') := by
  simp only [decodeGroups45] at h
  split at h
  · cases h
  next hfits =>
    obtain ⟨more, hmore, rfl⟩ := except_map_eq_ok.1 h
    refine ⟨_, _, more, rfl, hmore, fun g' rest' more' hrest => ?_⟩
    simp only [decodeGroups45]
    rw [if_neg hfits, hrest]
    rfl

/-- A short group that decodes gives one byte, whatever its index. -/
theorem decodeGroups45_short_eq_ok {g v0 v1 : Nat} {bytes : List Byte}
    (h : decodeGroups45 g [v0, v1] = .ok bytes) :
    bytes.length = 1 ∧ ∀ g', decodeGroups45 g' [v0, v1] = .ok bytes := by
  simp only [decodeGroups45] at h ⊢
  split at h
  · cases h
  next hfits =>
    cases h
    exact ⟨rfl, fun _ => if_neg hfits⟩

/-- Two bytes for each full group and one for a short one. -/
theorem decodeGroups45_length : ∀ (vs : List Nat) {g : Nat} {bytes : List Byte},
    decodeGroups45 g vs = .ok bytes →
    bytes.length = 2 * (vs.length / 3) + (if vs.length % 3 = 2 then 1 else 0)
  | [], _, _, h => by cases h; rfl
  | [_], _, _, h => by cases h; simp
  | [_, _], _, _, h => by simp [(decodeGroups45_short_eq_ok h).1]
  | v0 :: v1 :: v2 :: rest, g, bytes, h => by
    obtain ⟨b0, b1, more, rfl, hmore, -⟩ := decodeGroups45_full_eq_ok h
    have ih := decodeGroups45_length rest hmore
    have hdiv : (rest.length + 1 + 1 + 1) / 3 = rest.length / 3 + 1 := by omega
    have hmod : (rest.length + 1 + 1 + 1) % 3 = rest.length % 3 := by omega
    simp only [List.length_cons, hdiv, hmod, ih]
    omega

theorem dec45_length {t bytes : List Byte} (h : dec45 t = .ok bytes) :
    bytes.length = 2 * (t.length / 3) + (if t.length % 3 = 2 then 1 else 0) := by
  obtain ⟨-, -, hgroups⟩ := dec45_eq_ok h
  simpa only [List.length_map] using decodeGroups45_length _ hgroups

theorem dec45_length_le {t bytes : List Byte} (h : dec45 t = .ok bytes) : bytes.length ≤ t.length := by
  rw [dec45_length h]
  split <;> omega

/-- Settles O51: the length goes group by group, and a successful DCHUNK pends the decoding of LEN bytes. -/
theorem base45DecodingLength : Obligations.Base45DecodingLength := by
  refine ⟨fun t bytes h => ⟨dec45_length h, dec45_length_le h⟩, fun len s t hexec hok => ?_⟩
  obtain ⟨hlen, hdec⟩ := decodeBy_of_dchunk rfl hexec hok
  exact (dec45_length_le hdec).trans_eq hlen

/-! Texts split at a group boundary. -/

/-- Full groups, then any groups, decode as the two do, wherever the index of the second begins. -/
theorem decodeGroups45_append : ∀ (vs ws : List Nat) {g g' : Nat} {b1 b2 : List Byte}, vs.length % 3 = 0 →
    decodeGroups45 g vs = .ok b1 → decodeGroups45 g' ws = .ok b2 →
    ∀ k, decodeGroups45 k (vs ++ ws) = .ok (b1 ++ b2)
  | [], [], _, _, _, _, _, h1, h2, _ => by cases h1; cases h2; rfl
  | [], [_], _, _, _, _, _, h1, h2, _ => by cases h1; cases h2; rfl
  | [], [_, _], _, _, _, _, _, h1, h2, k => by cases h1; exact (decodeGroups45_short_eq_ok h2).2 k
  | [], _ :: _ :: _ :: rest, _, _, _, _, _, h1, h2, k => by
    cases h1
    obtain ⟨b0, b1, more, rfl, hmore, hfull⟩ := decodeGroups45_full_eq_ok h2
    exact hfull k rest more (decodeGroups45_append [] rest (g := 0) rfl rfl hmore (k + 1))
  | [_], _, _, _, _, _, hlen, _, _, _ => absurd hlen (by simp)
  | [_, _], _, _, _, _, _, hlen, _, _, _ => absurd hlen (by simp)
  | _ :: _ :: _ :: rest, ws, _, _, _, b2, hlen, h1, h2, k => by
    obtain ⟨b0, b1, more, rfl, hmore, hfull⟩ := decodeGroups45_full_eq_ok h1
    have hrest : rest.length % 3 = 0 := by simpa [Nat.add_assoc] using hlen
    exact hfull k (rest ++ ws) (more ++ b2) (decodeGroups45_append rest ws hrest hmore h2 (k + 1))

/-- A text split at a group boundary decodes piecewise. -/
theorem dec45_append {t1 t2 b1 b2 : List Byte} (hlen : t1.length % 3 = 0) (h1 : dec45 t1 = .ok b1)
    (h2 : dec45 t2 = .ok b2) : dec45 (t1 ++ t2) = .ok (b1 ++ b2) := by
  obtain ⟨-, hlegal1, hgroups1⟩ := dec45_eq_ok h1
  obtain ⟨hlen2, hlegal2, hgroups2⟩ := dec45_eq_ok h2
  have hlen' : (t1 ++ t2).length % 3 ≠ 1 := by
    rw [List.length_append]
    omega
  rw [dec45_of_legal hlen' (List.forall_mem_append.2 ⟨hlegal1, hlegal2⟩), List.map_append]
  exact decodeGroups45_append _ _ (by rwa [List.length_map]) hgroups1 hgroups2 0

/-! Decoding inverts encoding (R156). -/

theorem dec45_enc45Pair (b0 b1 : Byte) : dec45 (enc45Pair b0 b1) = .ok [b0, b1] := by
  obtain ⟨c, d, v, hc, hd, hv, hnum, henc⟩ := enc45Pair_digits b0 b1
  have h0 := b0.isLt
  have h1 := b1.isLt
  have hlegal : ∀ x ∈ [charOf alph45 c, charOf alph45 d, charOf alph45 v], x ∈ alph45 := by
    simp [charOf45_mem hc, charOf45_mem hd, charOf45_mem (v := v) (by omega)]
  have hgroup : groupNumber45 [charOf alph45 c, charOf alph45 d, charOf alph45 v] =
      b0.toNat * 256 + b1.toNat := by
    rw [groupNumber45_three, idxOf_charOf45 hc, idxOf_charOf45 hd, idxOf_charOf45 (by omega), hnum]
  have hhigh : (b0.toNat * 256 + b1.toNat) / 256 = b0.toNat := by omega
  have hlow : (b0.toNat * 256 + b1.toNat) % 256 = b1.toNat := by omega
  rw [henc, dec45_of_legal (by simp) hlegal, decodeGroups45_full, hgroup, if_neg (by omega), hhigh, hlow,
    BitVec.ofNat_toNat, BitVec.ofNat_toNat]
  rfl

theorem dec45_enc45Single (b0 : Byte) : dec45 (enc45Single b0) = .ok [b0] := by
  obtain ⟨c, d, hc, hd, hnum, henc⟩ := enc45Single_digits b0
  have h0 := b0.isLt
  have hlegal : ∀ x ∈ [charOf alph45 c, charOf alph45 d], x ∈ alph45 := by
    simp [charOf45_mem hc, charOf45_mem (v := d) (by omega)]
  have hgroup : groupNumber45 [charOf alph45 c, charOf alph45 d] = b0.toNat := by
    rw [groupNumber45_two, idxOf_charOf45 hc, idxOf_charOf45 (by omega), hnum]
  rw [henc, dec45_of_legal (by simp) hlegal, decodeGroups45_two, hgroup, if_neg (by omega),
    BitVec.ofNat_toNat]
  rfl

theorem dec45_enc45 : ∀ b : List Byte, dec45 (enc45 b) = .ok b
  | [] => rfl
  | [b0] => by rw [enc45_single]; exact dec45_enc45Single b0
  | b0 :: b1 :: rest => by
    rw [enc45_pair_append]
    exact dec45_append (t1 := enc45Pair b0 b1) (by simp) (dec45_enc45Pair b0 b1) (dec45_enc45 rest)

/-- Settles O52: decoding inverts encoding group by group, and a text that decodes is in the alphabet; only the
first check of the decoder reports INVALID_LENGTH. -/
theorem base45RoundTrip : Obligations.Base45RoundTrip := by
  refine ⟨fun b => ⟨dec45_enc45 b, (dec45_eq_ok (dec45_enc45 b)).2.1, ?_⟩, fun t => ⟨?_, fun hlen => ?_⟩⟩
  · rw [enc45_length]
    omega
  · rintro ⟨err, herr, hkind⟩
    obtain ⟨-, hlen⟩ | ⟨hkind', -⟩ | ⟨hkind', -⟩ := dec45_error_kind herr
    · exact hlen
    · cases hkind.symm.trans hkind'
    · cases hkind.symm.trans hkind'
  · exact ⟨_, dec45_of_length hlen, rfl⟩

end Sys2Proof.Machine
end

section
/-! PROOFS. The base-85 conversions (42_base85.md): the digits of a group (Base85DigitsOfFullAndPartialGroups),
the scan of a text that decodes as a relation that does not mention positions, and from it
Base85DecodingLength, Base85RoundTrip and B85DchunkFillsThePendingBuffer. -/

namespace Sys2Proof.Machine

/-! The digits of a group (R170, R172, R173). -/

theorem char85_toNat {d : Nat} (h : d < 85) : (char85 d).toNat = 0x21 + d := by
  rw [char85, BitVec.toNat_ofNat]
  omega

theorem isDigit85_char85 {d : Nat} (h : d < 85) : isDigit85 (char85 d) := by
  rw [isDigit85, char85_toNat h]
  omega

theorem bigEndian4_eq (b0 b1 b2 b3 : Byte) : bigEndian4 b0 b1 b2 b3 = bigEndianNumber [b0, b1, b2, b3] := by
  have h0 := b0.isLt
  have h1 := b1.isLt
  have h2 := b2.isLt
  have h3 := b3.isLt
  have hswap : bigEndian4 b0 b1 b2 b3 =
      b3.toNat ||| b2.toNat <<< 8 ||| b1.toNat <<< 16 ||| b0.toNat <<< 24 := by
    simp only [bigEndian4, Nat.or_comm, Nat.or_assoc]
  rw [hswap, or_shiftLeft_eq_add (acc := b3.toNat) (k := 8) _ (by omega),
    or_shiftLeft_eq_add (k := 16) _ (by omega), or_shiftLeft_eq_add (k := 24) _ (by omega)]
  simp only [bigEndianNumber, List.foldl_cons, List.foldl_nil]
  omega

theorem bigEndianNumber_lt (b0 b1 b2 b3 : Byte) : bigEndianNumber [b0, b1, b2, b3] < 2 ^ 32 := by
  have h0 := b0.isLt
  have h1 := b1.isLt
  have h2 := b2.isLt
  have h3 := b3.isLt
  simp only [bigEndianNumber, List.foldl_cons, List.foldl_nil]
  omega

/-- The five characters of a number below 85^5 are its digits. -/
theorem areDigits85_fiveChars85 {n : Nat} (h : n < 85 ^ 5) : AreDigits85 n (fiveChars85 n) := by
  refine ⟨n / 85 ^ 4 % 85, n / 85 ^ 3 % 85, n / 85 ^ 2 % 85, n / 85 ^ 1 % 85, n / 85 ^ 0 % 85,
    ?_, ?_, ?_, ?_, ?_, ?_, rfl⟩ <;> omega

theorem areDigits85_group (b0 b1 b2 b3 : Byte) :
    AreDigits85 (bigEndianNumber [b0, b1, b2, b3]) (fiveChars85 (bigEndianNumber [b0, b1, b2, b3])) :=
  areDigits85_fiveChars85 ((bigEndianNumber_lt b0 b1 b2 b3).trans (by decide))

section Digits

variable {n : Nat} {chars : List Byte}

theorem AreDigits85.isDigit85 (h : AreDigits85 n chars) : ∀ c ∈ chars, isDigit85 c := by
  obtain ⟨d4, d3, d2, d1, d0, h4, h3, h2, h1, h0, -, rfl⟩ := h
  simp [isDigit85_char85 h4, isDigit85_char85 h3, isDigit85_char85 h2, isDigit85_char85 h1,
    isDigit85_char85 h0]

theorem AreDigits85.length (h : AreDigits85 n chars) : chars.length = 5 := by
  obtain ⟨d4, d3, d2, d1, d0, -, -, -, -, -, -, rfl⟩ := h
  rfl

/-- The number of the characters that are a number's digits is that number. -/
theorem AreDigits85.groupNumber85 (h : AreDigits85 n chars) : groupNumber85 chars = n := by
  obtain ⟨d4, d3, d2, d1, d0, h4, h3, h2, h1, h0, rfl, rfl⟩ := h
  simp only [Machine.groupNumber85, List.foldl_cons, List.foldl_nil, char85_toNat h4, char85_toNat h3,
    char85_toNat h2, char85_toNat h1, char85_toNat h0]
  omega

/-- The first digit of a 32-bit number is at most 82, the character `s`. -/
theorem AreDigits85.head_toNat_le (h : AreDigits85 n chars) (hn : n < 2 ^ 32) :
    ∀ c ∈ chars.head?, c.toNat ≤ 0x73 := by
  obtain ⟨d4, d3, d2, d1, d0, h4, -, -, -, -, rfl, rfl⟩ := h
  intro c hc
  obtain rfl : char85 d4 = c := by simpa using hc
  rw [char85_toNat h4]
  omega

/-- With digits after the `k`-th replaced by the largest one, the number grows by less than `256^(5-k)`. -/
theorem AreDigits85.groupNumber85_padded (h : AreDigits85 n chars) {k : Nat} (hk2 : 2 ≤ k) (hk4 : k ≤ 4) :
    n ≤ Machine.groupNumber85 (chars.take k ++ List.replicate (5 - k) 0x75) ∧
      Machine.groupNumber85 (chars.take k ++ List.replicate (5 - k) 0x75) < n + 256 ^ (5 - k) := by
  obtain ⟨d4, d3, d2, d1, d0, h4, h3, h2, h1, h0, rfl, rfl⟩ := h
  have hlast : (0x75 : Byte).toNat = 0x75 := rfl
  interval_cases k <;>
    simp only [Machine.groupNumber85, List.take, List.replicate, List.cons_append, List.nil_append,
      List.foldl_cons, List.foldl_nil, char85_toNat h4, char85_toNat h3, char85_toNat h2, char85_toNat h1,
      hlast, Nat.reduceSub] <;>
    omega

end Digits

/-- A full group is `z` or its five digits. -/
theorem enc85Group_eq (b0 b1 b2 b3 : Byte) :
    enc85Group b0 b1 b2 b3 =
      if bigEndianNumber [b0, b1, b2, b3] = 0 then [shorthand85]
      else fiveChars85 (bigEndianNumber [b0, b1, b2, b3]) := by
  rw [enc85Group, bigEndian4_eq]

/-- A partial group is the first digits of the group padded with zero bytes. -/
theorem enc85Partial_eq {g : List Byte} (hpos : 1 ≤ g.length) (hle : g.length ≤ 3) :
    AreDigits85 (bigEndianNumber (g ++ List.replicate (4 - g.length) 0))
      (fiveChars85 (bigEndianNumber (g ++ List.replicate (4 - g.length) 0))) ∧
    enc85Partial g =
      (fiveChars85 (bigEndianNumber (g ++ List.replicate (4 - g.length) 0))).take (g.length + 1) := by
  match g, hpos, hle with
  | [b0], _, _ => exact ⟨areDigits85_group b0 0 0 0, by rw [enc85Partial, bigEndian4_eq]; rfl⟩
  | [b0, b1], _, _ => exact ⟨areDigits85_group b0 b1 0 0, by rw [enc85Partial, bigEndian4_eq]; rfl⟩
  | [b0, b1, b2], _, _ => exact ⟨areDigits85_group b0 b1 b2 0, by rw [enc85Partial, bigEndian4_eq]; rfl⟩

theorem isDigit85_of_mem_enc85Partial {g : List Byte} (hpos : 1 ≤ g.length) (hle : g.length ≤ 3) :
    ∀ c ∈ enc85Partial g, isDigit85 c := by
  obtain ⟨hdigits, heq⟩ := enc85Partial_eq hpos hle
  rw [heq]
  exact fun c hc => hdigits.isDigit85 c (List.mem_of_mem_take hc)

/-- Settles O59: the divisions of R172 as digits, of the group or of the padded partial group. -/
theorem base85DigitsOfFullAndPartialGroups : Obligations.Base85DigitsOfFullAndPartialGroups := by
  refine ⟨fun d => char85_toNat, fun b0 b1 b2 b3 => ⟨fun hzero => ?_, fun hne => ?_⟩, by decide,
    fun g hpos hle => ?_, by decide, by decide, by decide⟩
  · rw [enc85Group_eq, if_pos hzero]
    rfl
  · have hdigits := areDigits85_group b0 b1 b2 b3
    have hhead := hdigits.head_toNat_le (bigEndianNumber_lt b0 b1 b2 b3)
    rw [enc85Group_eq, if_neg hne]
    exact ⟨hdigits, fun ht => absurd (hhead _ ht) (by decide), fun hu => absurd (hhead _ hu) (by decide)⟩
  · obtain ⟨hdigits, heq⟩ := enc85Partial_eq hpos hle
    exact ⟨_, hdigits, heq, fun hz => (isDigit85_of_mem_enc85Partial hpos hle _ hz).ne_shorthand rfl⟩

/-! A scan that succeeds (R177, R178). -/

/-- Behind the open group `grp`, the text decodes to the bytes: the rules of the scan without its position
and its group index, which only an error reports. -/
inductive Scans85 : (grp : List Nat) → (text bytes : List Byte) → Prop
  | done {grp : List Nat} {bytes : List Byte} (h : ∀ len g, final85 len g grp = .ok bytes) :
      Scans85 grp [] bytes
  | shorthand {rest bytes : List Byte} (h : Scans85 [] rest bytes) :
      Scans85 [] (shorthand85 :: rest) ([0, 0, 0, 0] ++ bytes)
  | digit {grp : List Nat} {c : Byte} {rest bytes : List Byte} (hc : isDigit85 c) (hlen : grp.length < 4)
      (h : Scans85 (grp ++ [digit85 c]) rest bytes) : Scans85 grp (c :: rest) bytes
  | fifth {grp : List Nat} {c : Byte} {rest first bytes : List Byte} (hc : isDigit85 c)
      (hlen : grp.length = 4) (hfirst : ∀ g, decodeGroup85 g (grp ++ [digit85 c]) = .ok first)
      (h : Scans85 [] rest bytes) : Scans85 grp (c :: rest) (first ++ bytes)

/-- A group that decodes gives four bytes, whatever its index. -/
theorem decodeGroup85_eq_ok {g : Nat} {five : List Nat} {bytes : List Byte}
    (h : decodeGroup85 g five = .ok bytes) :
    bytes.length = 4 ∧ ∀ g', decodeGroup85 g' five = .ok bytes := by
  simp only [decodeGroup85] at h ⊢
  split at h
  · cases h
  next hfits =>
    cases h
    exact ⟨rfl, fun _ => if_neg hfits⟩

/-- A final group that decodes gives one byte less than its characters, whatever its index. -/
theorem final85_eq_ok {len g : Nat} {grp : List Nat} {bytes : List Byte} (h5 : grp.length < 5)
    (h : final85 len g grp = .ok bytes) :
    bytes.length = grp.length - 1 ∧ ∀ len' g', final85 len' g' grp = .ok bytes := by
  simp only [final85] at h ⊢
  split at h
  next h0 =>
    cases h
    exact ⟨by simp [h0], fun _ _ => if_pos h0⟩
  next h0 =>
    split at h
    · cases h
    next h1 =>
      obtain ⟨four, hfour, rfl⟩ := except_map_eq_ok.1 h
      obtain ⟨hlen, hany⟩ := decodeGroup85_eq_ok hfour
      refine ⟨by rw [List.length_take, hlen]; omega, fun len' g' => ?_⟩
      rw [if_neg h0, if_neg h1, hany g']
      rfl

theorem scans85_of_scan85 : ∀ (text : List Byte) {p g : Nat} {grp : List Nat} {bytes : List Byte},
    grp.length < 5 → scan85 p g grp text = .ok bytes → Scans85 grp text bytes
  | [], p, g, grp, bytes, h5, h => .done (final85_eq_ok h5 h).2
  | c :: rest, p, g, grp, bytes, h5, h => by
    by_cases hc : isDigit85 c
    · simp only [scan85, val85_of_digit hc] at h
      split at h
      next hfive =>
        split at h
        · cases h
        next first hfirst =>
          obtain ⟨more, hmore, rfl⟩ := except_map_eq_ok.1 h
          exact .fifth hc (by omega) (decodeGroup85_eq_ok hfirst).2 (scans85_of_scan85 rest (by decide) hmore)
      next hfive =>
        exact .digit hc (by omega)
          (scans85_of_scan85 rest (by rw [List.length_append, List.length_singleton]; omega) h)
    · by_cases hz : c = shorthand85
      · subst hz
        by_cases hgrp : grp = []
        · subst hgrp
          rw [scan85_shorthand] at h
          obtain ⟨more, hmore, rfl⟩ := except_map_eq_ok.1 h
          exact .shorthand (scans85_of_scan85 rest (by decide) hmore)
        · cases (scan85_shorthand_inside hgrp).symm.trans h
      · cases (scan85_invalid hc hz).symm.trans h

theorem Scans85.scan85 {grp : List Nat} {text bytes : List Byte} (h : Scans85 grp text bytes) :
    ∀ p g, scan85 p g grp text = .ok bytes := by
  induction h with
  | done hfinal => exact hfinal
  | shorthand _ ih => exact fun p g => by rw [scan85_shorthand, ih]; rfl
  | digit hc hlen _ ih =>
    intro p g
    simp only [Machine.scan85, val85_of_digit hc]
    rw [if_neg (by omega), ih]
  | fifth hc hlen hfirst _ ih =>
    intro p g
    simp only [Machine.scan85, val85_of_digit hc]
    rw [if_pos (by omega), hfirst, ih]
    rfl

/-- `DEC85` succeeds exactly where the relation holds from no open group on. -/
theorem dec85_eq_ok_iff {text bytes : List Byte} : dec85 text = .ok bytes ↔ Scans85 [] text bytes :=
  ⟨scans85_of_scan85 text (by decide), fun h => h.scan85 0 0⟩

section Scans

variable {grp : List Nat} {text bytes : List Byte}

/-- A text that decodes has only the 85 characters and `z`. -/
theorem Scans85.legal (h : Scans85 grp text bytes) : ∀ c ∈ text, isDigit85 c ∨ c = shorthand85 := by
  induction h with
  | done _ => simp
  | shorthand _ ih => exact List.forall_mem_cons.2 ⟨.inr rfl, ih⟩
  | digit hc _ _ ih => exact List.forall_mem_cons.2 ⟨.inl hc, ih⟩
  | fifth hc _ _ _ ih => exact List.forall_mem_cons.2 ⟨.inl hc, ih⟩

/-- Four bytes for each `z` and each full group, and one less than its characters for the last group. -/
theorem Scans85.length (h : Scans85 grp text bytes) (h5 : grp.length < 5) :
    bytes.length = 4 * text.count shorthand85 +
      4 * ((grp.length + (text.length - text.count shorthand85)) / 5) +
      ((grp.length + (text.length - text.count shorthand85)) % 5 - 1) := by
  induction h with
  | done hfinal =>
    rw [(final85_eq_ok h5 (hfinal 0 0)).1, List.count_nil, List.length_nil]
    omega
  | @shorthand rest more _ ih =>
    have hle : rest.count shorthand85 ≤ rest.length := List.count_le_length
    have hrest := ih (by decide)
    rw [List.count_cons_self, List.length_append, hrest, List.length_cons, List.length_cons,
      List.length_cons, List.length_cons, List.length_cons, List.length_nil]
    omega
  | @digit grp c rest more hc hlen _ ih =>
    have hle : rest.count shorthand85 ≤ rest.length := List.count_le_length
    have hrest := ih (by rw [List.length_append, List.length_singleton]; omega)
    rw [List.length_append, List.length_singleton] at hrest
    rw [List.count_cons_of_ne hc.ne_shorthand, List.length_cons, hrest, Nat.succ_sub hle]
    have hshift : grp.length + 1 + (rest.length - rest.count shorthand85) =
        grp.length + (rest.length - rest.count shorthand85).succ := by omega
    rw [hshift]
  | @fifth grp c rest first more hc hlen hfirst _ ih =>
    have hle : rest.count shorthand85 ≤ rest.length := List.count_le_length
    have hrest := ih (by decide)
    rw [List.count_cons_of_ne hc.ne_shorthand, List.length_append, hrest,
      (decodeGroup85_eq_ok (hfirst 0)).1, hlen, List.length_cons, List.length_nil, Nat.succ_sub hle]
    omega

/-- A text that ends at a group boundary, then another, decode piecewise. -/
theorem Scans85.append (h : Scans85 grp text bytes) (hopen : openChars85 grp.length text = 0)
    {text' bytes' : List Byte} (h' : Scans85 [] text' bytes') :
    Scans85 grp (text ++ text') (bytes ++ bytes') := by
  induction h with
  | @done grp bytes hfinal =>
    obtain rfl : grp = [] := List.length_eq_zero_iff.1 hopen
    obtain rfl : [] = bytes := Except.ok.inj (hfinal 0 0)
    exact h'
  | shorthand _ ih => exact .shorthand (ih (by simpa [openChars85] using hopen))
  | @digit grp c rest more hc hlen _ ih =>
    refine .digit hc hlen (ih ?_)
    rw [openChars85, if_neg hc.ne_shorthand, Nat.mod_eq_of_lt (by omega)] at hopen
    rwa [List.length_append, List.length_singleton]
  | fifth hc hlen hfirst _ ih =>
    rw [List.append_assoc]
    refine .fifth hc hlen hfirst (ih ?_)
    rwa [openChars85, if_neg hc.ne_shorthand, hlen] at hopen

end Scans

/-- A text split at a group boundary decodes piecewise. -/
theorem dec85_append {t1 t2 b1 b2 : List Byte} (hopen : openChars85 0 t1 = 0) (h1 : dec85 t1 = .ok b1)
    (h2 : dec85 t2 = .ok b2) : dec85 (t1 ++ t2) = .ok (b1 ++ b2) :=
  dec85_eq_ok_iff.2 ((dec85_eq_ok_iff.1 h1).append hopen (dec85_eq_ok_iff.1 h2))

/-! The length of a decoding (R180). -/

theorem dec85_length {t bytes : List Byte} (h : dec85 t = .ok bytes) :
    bytes.length = 4 * t.count shorthand85 + 4 * ((t.length - t.count shorthand85) / 5) +
      ((t.length - t.count shorthand85) % 5 - 1) := by
  simpa using (dec85_eq_ok_iff.1 h).length (by decide)

theorem dec85_length_le {t bytes : List Byte} (h : dec85 t = .ok bytes) : bytes.length ≤ 4 * t.length := by
  have hle : t.count shorthand85 ≤ t.length := List.count_le_length
  rw [dec85_length h]
  omega

/-- Each `z` of a text of them is one group of zero bytes. -/
theorem dec85_replicate_shorthand (k : Nat) :
    dec85 (List.replicate k shorthand85) = .ok (List.replicate (4 * k) 0) := by
  rw [dec85_eq_ok_iff]
  induction k with
  | zero => exact .done fun _ _ => rfl
  | succ k ih => exact .shorthand ih

/-- Settles O53: the length goes along the scan, and a successful DCHUNK pends the decoding of LEN bytes. -/
theorem base85DecodingLength : Obligations.Base85DecodingLength := by
  refine ⟨fun t bytes h => ⟨dec85_length h, dec85_length_le h⟩, dec85_replicate_shorthand,
    fun len s t hexec hok => ?_⟩
  obtain ⟨hlen, hdec⟩ := decodeBy_of_dchunk rfl hexec hok
  exact (dec85_length_le hdec).trans_eq (congrArg (4 * ·) hlen)

/-! Decoding inverts encoding (R186). -/

theorem bytesOf32_bigEndianNumber (b0 b1 b2 b3 : Byte) :
    bytesOf32 (bigEndianNumber [b0, b1, b2, b3]) = [b0, b1, b2, b3] := by
  have h0 := b0.isLt
  have h1 := b1.isLt
  have h2 := b2.isLt
  have h3 := b3.isLt
  simp only [bytesOf32, bigEndianNumber, List.foldl_cons, List.foldl_nil, List.cons.injEq, and_true,
    BitVec.toNat_eq, BitVec.toNat_ofNat, Nat.shiftRight_eq_div_pow]
  omega

/-- The upper bytes of a number are those of a partial group when the lower ones alone differ from its
padding. -/
theorem take_bytesOf32 {g : List Byte} (hpos : 1 ≤ g.length) (hle : g.length ≤ 3) {m : Nat}
    (hge : bigEndianNumber (g ++ List.replicate (4 - g.length) 0) ≤ m)
    (hlt : m < bigEndianNumber (g ++ List.replicate (4 - g.length) 0) + 256 ^ (4 - g.length)) :
    m ≤ 2 ^ 32 - 1 ∧ (bytesOf32 m).take g.length = g := by
  match g, hpos, hle with
  | [b0], _, _ =>
    have h0 := b0.isLt
    simp [bigEndianNumber, bytesOf32, BitVec.toNat_eq, Nat.shiftRight_eq_div_pow] at hge hlt ⊢
    omega
  | [b0, b1], _, _ =>
    have h0 := b0.isLt
    have h1 := b1.isLt
    simp [bigEndianNumber, bytesOf32, BitVec.toNat_eq, Nat.shiftRight_eq_div_pow] at hge hlt ⊢
    omega
  | [b0, b1, b2], _, _ =>
    have h0 := b0.isLt
    have h1 := b1.isLt
    have h2 := b2.isLt
    simp [bigEndianNumber, bytesOf32, BitVec.toNat_eq, Nat.shiftRight_eq_div_pow] at hge hlt ⊢
    omega

theorem dec85_enc85Partial {g : List Byte} (hpos : 1 ≤ g.length) (hle : g.length ≤ 3) :
    dec85 (enc85Partial g) = .ok g := by
  obtain ⟨hdigits, heq⟩ := enc85Partial_eq hpos hle
  have hlen := enc85Partial_length (g := g) (by omega)
  obtain ⟨hge, hlt⟩ := hdigits.groupNumber85_padded (k := g.length + 1) (by omega) (by omega)
  rw [← heq, ← hlen] at hge hlt
  have hpad : 5 - (enc85Partial g).length = 4 - g.length := by omega
  obtain ⟨hfits, htake⟩ := take_bytesOf32 hpos hle hge (hlt.trans_eq (by rw [hpad]))
  have hbytes : (enc85Partial g).length - 1 = g.length := by omega
  rw [dec85_group (by omega) (by omega) (isDigit85_of_mem_enc85Partial hpos hle) hfits, hbytes, htake]

theorem openChars85_of_digits {chars : List Byte} (h : ∀ c ∈ chars, isDigit85 c) {m : Nat} (hm : m < 5) :
    openChars85 m chars = (m + chars.length) % 5 := by
  induction chars generalizing m with
  | nil => exact (Nat.mod_eq_of_lt hm).symm
  | cons c rest ih =>
    obtain ⟨hc, hrest⟩ := List.forall_mem_cons.1 h
    rw [openChars85, if_neg hc.ne_shorthand, ih hrest (Nat.mod_lt _ (by decide)), List.length_cons]
    omega

/-- A full group ends at a group boundary and decodes to its bytes. -/
theorem dec85_enc85Group (b0 b1 b2 b3 : Byte) :
    openChars85 0 (enc85Group b0 b1 b2 b3) = 0 ∧ dec85 (enc85Group b0 b1 b2 b3) = .ok [b0, b1, b2, b3] := by
  have hbytes := bytesOf32_bigEndianNumber b0 b1 b2 b3
  rw [enc85Group_eq]
  split
  next hzero =>
    rw [hzero] at hbytes
    exact ⟨rfl, (dec85_replicate_shorthand 1).trans (congrArg Except.ok hbytes)⟩
  next =>
    have hdigits := areDigits85_group b0 b1 b2 b3
    have hlen := hdigits.length
    have hnum := hdigits.groupNumber85
    have hlt := bigEndianNumber_lt b0 b1 b2 b3
    refine ⟨by rw [openChars85_of_digits hdigits.isDigit85 (by decide), hlen], ?_⟩
    rw [dec85_group (by omega) (by omega) hdigits.isDigit85] <;>
      rw [hlen, Nat.sub_self, List.replicate_zero, List.append_nil, hnum]
    · rw [hbytes]
      rfl
    · omega

theorem dec85_enc85 : ∀ b : List Byte, dec85 (enc85 b) = .ok b
  | [] => rfl
  | [b0] => by rw [enc85_partial (by simp) (by simp), dec85_enc85Partial (by simp) (by simp)]
  | [b0, b1] => by rw [enc85_partial (by simp) (by simp), dec85_enc85Partial (by simp) (by simp)]
  | [b0, b1, b2] => by rw [enc85_partial (by simp) (by simp), dec85_enc85Partial (by simp) (by simp)]
  | b0 :: b1 :: b2 :: b3 :: rest => by
    obtain ⟨hopen, hgroup⟩ := dec85_enc85Group b0 b1 b2 b3
    have hsplit : enc85 (b0 :: b1 :: b2 :: b3 :: rest) = enc85Group b0 b1 b2 b3 ++ enc85 rest := by
      rw [← enc85_group]
      exact enc85_append (front := [b0, b1, b2, b3]) (by simp) rest
    rw [hsplit]
    exact dec85_append hopen hgroup (dec85_enc85 rest)

/-- Settles O54: decoding inverts encoding group by group, and a text that decodes has only the 85 characters
and `z`; a partial group of zero bytes is spelt with `!`. -/
theorem base85RoundTrip : Obligations.Base85RoundTrip := by
  refine ⟨fun b => ⟨dec85_enc85 b, (dec85_eq_ok_iff.1 (dec85_enc85 b)).legal⟩, by decide,
    dec85_replicate_shorthand 1, fun k hpos hle hz => ?_⟩
  rw [enc85_partial (by simpa using hpos) (by simpa using hle), enc85Partial_replicate_zero hpos hle] at hz
  exact absurd (List.eq_of_mem_replicate hz) (by decide)

/-- Settles O36: DCHUNK at the base-85 decoding on an OPEN channel with nothing pending, then while bytes are
pending, then in the states of R102. -/
theorem b85DchunkFillsThePendingBuffer : Obligations.B85DchunkFillsThePendingBuffer := by
  refine ⟨fun len s => ⟨?_, fun hlen => ⟨fun hst hpend => ⟨fun bytes => ?_, fun err => ?_⟩, ?_, ?_⟩⟩,
    by decide, dec85_replicate_shorthand 2, by decide⟩
  · exact encode_eq_len_or .b85 .dchunk rfl rfl (by decide)
  · exact exec_of_dchunk_ok (i := .b85Dchunk len) rfl hlen hst hpend
  · exact exec_of_dchunk_error (i := .b85Dchunk len) rfl hlen hst hpend
  · exact answeredBare_of_dchunk_pending (i := .b85Dchunk len) rfl hlen
  · exact decoderErrors_of_dchunk rfl hlen

end Sys2Proof.Machine
end

section
/-! PROOFS. The base-91 conversions (43_base91.md): one step of the encoder (Base91EncoderInvariant), the length of
a decoding (Base91DecodingLength), texts split at a byte boundary, and decoding as the inverse of encoding
(Base91RoundTrip). The decoder behind an encoder holds the low bits of the bytes on their way, the encoder the high
ones; together they are the little-endian number of those bytes. -/

namespace Sys2Proof.Machine

/-! The values of the characters and the values emitted (R200, R202). -/

theorem val91_charOf91 {v : Nat} (h : v < 91) : val91 b91Params (charOf alph91 v) = v :=
  val91_charOf (p := b91Params) alph91_nodup h

theorem val91_lt {c : Byte} (h : c ∈ alph91) : val91 b91Params c < 91 := by
  obtain ⟨v, hv, rfl⟩ := exists_charOf_of_mem h
  rw [val91_charOf91 hv]
  exact hv

/-- The value taken from the low bits of a number is one that two characters spell. -/
theorem emitted91_le (n : Nat) : n % 2 ^ creditedBits91 n ≤ 8280 := by
  rw [creditedBits91_eq]
  split <;> omega

/-- The decoder credits the bits that the encoder took. -/
theorem creditedBits91_emitted (n : Nat) : creditedBits91 (n % 2 ^ creditedBits91 n) = creditedBits91 n := by
  have hlow : n % 2 ^ creditedBits91 n % 8192 = n % 8192 := by
    rw [creditedBits91_eq]
    split <;> omega
  rw [creditedBits91_eq (n % _), hlow, ← creditedBits91_eq]

/-- A value that two characters spell has no more bits than it credits. -/
theorem lt_two_pow_creditedBits91 {d : Nat} (h : d ≤ 8280) : d < 2 ^ creditedBits91 d := by
  rw [creditedBits91_eq]
  split <;> omega

/-- Settles O55: the step by the number of bits held, its residual, and the low 13 bits of an emitted value. -/
theorem base91EncoderInvariant : Obligations.Base91EncoderInvariant := by
  refine ⟨by decide, by decide, by decide, by decide, fun acc nbits b n hle hacc hn => ?_⟩
  obtain ⟨hle', hlt'⟩ := step91_residual b91Params (st := (acc, nbits)) ⟨hle, hacc⟩ b
  refine ⟨fun h13 => ?_, fun hgt h88 => ?_, fun hgt h88 => ⟨?_, ?_, ?_⟩, hle', hlt'⟩
  · rw [step91_of_le b91Params b hacc h13, hn]
  · have hcredit : creditedBits91 n = 13 := (creditedBits91_eq n).trans (if_pos h88)
    rw [step91_of_gt b91Params b hacc hle hgt hn, hcredit]
    rfl
  · have hcredit : creditedBits91 n = 14 := (creditedBits91_eq n).trans (if_neg (not_lt.2 h88))
    rw [step91_of_gt b91Params b hacc hle hgt hn, hcredit]
    rfl
  · omega
  · omega

/-! The length of a decoding, for all parameters (R215). -/

/-- A pair gives the whole bytes among the bits held and at most 14 more, and keeps the rest. -/
theorem pair91_length (p : Config.B91Params) (acc nbits v1 v2 : Nat) :
    ∃ total ≤ nbits + 14, (pair91 p acc nbits v1 v2).1.2 = total % 8 ∧
      (pair91 p acc nbits v1 v2).2.length = total / 8 := by
  have hcredit := (creditedBits91_bounds (v1 + v2 * 91)).2
  rw [pair91]
  split
  · refine ⟨13, by omega, ?_⟩
    rw [drainBytes91_eq 13 13 _ le_rfl]
    simp
  · refine ⟨nbits + creditedBits91 (v1 + v2 * 91), by omega, ?_⟩
    rw [drainBytes91_eq _ _ _ le_rfl]
    simp

theorem final91_length_le (acc nbits : Nat) (pv : Option Nat) : (final91 acc nbits pv).length ≤ 1 := by
  cases pv with
  | some v => exact le_rfl
  | none =>
    rw [final91]
    split
    · exact le_rfl
    · exact Nat.zero_le 1

/-- The bytes of the bits credited, and one more at the end. -/
theorem scan91_length_le (p : Config.B91Params) : ∀ (t : List Byte) (acc : Nat) {nbits : Nat}, nbits < 8 →
    (scan91 p acc nbits none t).length ≤ (nbits + 14 * (t.length / 2)) / 8 + 1
  | [], acc, nbits, _ => (final91_length_le acc nbits none).trans (Nat.le_add_left _ _)
  | [c], acc, nbits, _ => (final91_length_le acc nbits (some (val91 p c))).trans (Nat.le_add_left _ _)
  | c1 :: c2 :: rest, acc, nbits, _ => by
    obtain ⟨total, hle, hnbits, hlen⟩ := pair91_length p acc nbits (val91 p c1) (val91 p c2)
    have ih := scan91_length_le p rest (pair91 p acc nbits (val91 p c1) (val91 p c2)).1.1
      (hnbits ▸ Nat.mod_lt total (by decide))
    have hpairs : (rest.length + 1 + 1) / 2 = rest.length / 2 + 1 := by omega
    rw [scan91_pair (st := (pair91 p acc nbits _ _).1) (o := (pair91 p acc nbits _ _).2) rfl,
      List.length_append, hlen, List.length_cons, List.length_cons, hpairs]
    omega

theorem dec91_length_le (p : Config.B91Params) (t : List Byte) : (dec91 p t).length ≤ t.length := by
  match t with
  | [] => exact le_rfl
  | [c] => rw [dec91_lone]; exact le_rfl
  | c1 :: c2 :: rest =>
    have h := scan91_length_le p (c1 :: c2 :: rest) 0 (nbits := 0) (by decide)
    rw [dec91]
    simp only [List.length_cons] at h ⊢
    omega

/-- Settles O57: a text of n characters credits at most 14 bits for two, and a successful DCHUNK pends the
decoding of LEN bytes. -/
theorem base91DecodingLength : Obligations.Base91DecodingLength := by
  refine ⟨dec91_length_le, fun len s t hexec hok => ?_⟩
  obtain ⟨hlen, hdec⟩ := decodeBy_of_dchunk rfl hexec hok
  have hpend : dec91 b91Params s.dataIn = t.dec.b91.pend := Except.ok.inj hdec
  exact (congrArg List.length hpend).symm.trans_le ((dec91_length_le _ _).trans_eq hlen)

/-! Numbers as little-endian bytes. -/

/-- The lowest `k` bytes of a number, the lowest first. -/
def leBytes (k m : Nat) : List Byte :=
  (List.range k).map fun j => BitVec.ofNat 8 (m / 2 ^ (8 * j))

theorem leBytes_add (q k m : Nat) : leBytes (q + k) m = leBytes q m ++ leBytes k (m / 2 ^ (8 * q)) := by
  simp only [leBytes, List.range_add, List.map_append, List.map_map, Function.comp_def,
    Nat.div_div_eq_div_mul, ← Nat.pow_add, ← Nat.mul_add]

/-- Bits above the lowest `q` bytes do not reach them. -/
theorem leBytes_add_mul (q m y : Nat) : leBytes q (m + y * 2 ^ (8 * q)) = leBytes q m := by
  refine List.map_congr_left fun j hj => BitVec.eq_of_toNat_eq ?_
  have hjq : 8 * q = 8 * j + 8 + 8 * (q - (j + 1)) := by
    have := List.mem_range.1 hj
    omega
  have hsplit : y * 2 ^ (8 * q) = 2 ^ 8 * (y * 2 ^ (8 * (q - (j + 1)))) * 2 ^ (8 * j) := by
    rw [hjq, Nat.pow_add, Nat.pow_add]
    ring
  rw [BitVec.toNat_ofNat, BitVec.toNat_ofNat, hsplit, Nat.add_mul_div_right _ _ (by positivity),
    Nat.add_mul_mod_self_left]

/-- The bytes of a number that is known in two parts, the lower of which reaches `r` bits into the next byte. -/
theorem leBytes_append (q k r m y : Nat) :
    leBytes q m ++ leBytes k (m / 2 ^ (8 * q) + y * 2 ^ r) = leBytes (q + k) (m + y * 2 ^ (8 * q + r)) := by
  have hsplit : y * 2 ^ (8 * q + r) = y * 2 ^ r * 2 ^ (8 * q) := by
    rw [Nat.pow_add]
    ring
  rw [leBytes_add, hsplit, leBytes_add_mul, Nat.add_mul_div_right _ _ (by positivity)]

/-- A byte above the lowest `k` bytes is the next one. -/
theorem leBytes_succ {k m : Nat} (h : m < 2 ^ (8 * k)) (b : Byte) :
    leBytes (k + 1) (m + b.toNat * 2 ^ (8 * k)) = leBytes k m ++ [b] := by
  have hlast : leBytes 1 b.toNat = [b] := by simp [leBytes]
  rw [leBytes_add, leBytes_add_mul, Nat.add_mul_div_right _ _ (by positivity), Nat.div_eq_of_lt h,
    Nat.zero_add, hlast]

/-! The decoder on a pair of characters (R208). -/

/-- What is left of the bits held after the whole bytes are taken fits in its bits. -/
theorem div_lt_two_pow_mod {m total : Nat} (h : m < 2 ^ total) :
    m / 2 ^ (8 * (total / 8)) < 2 ^ (total % 8) := by
  apply Nat.div_lt_of_lt_mul
  rwa [← Nat.pow_add, Nat.div_add_mod]

theorem add_mul_two_pow_lt {a k d c : Nat} (ha : a < 2 ^ k) (hd : d < 2 ^ c) :
    a + d * 2 ^ k < 2 ^ (k + c) := by
  calc a + d * 2 ^ k < (d + 1) * 2 ^ k := by rw [Nat.succ_mul]; omega
    _ ≤ 2 ^ c * 2 ^ k := Nat.mul_le_mul_right _ hd
    _ = 2 ^ (k + c) := by rw [Nat.pow_add, Nat.mul_comm]

/-- A pair of characters puts its value above the bits held, and every whole byte then held is given. -/
theorem scan91_pair_value {acc nbits : Nat} (hacc : acc < 2 ^ nbits) {c1 c2 : Byte} {d : Nat}
    (hd : d = val91 b91Params c1 + val91 b91Params c2 * 91) (rest : List Byte) :
    scan91 b91Params acc nbits none (c1 :: c2 :: rest) =
      leBytes ((nbits + creditedBits91 d) / 8) (acc + d * 2 ^ nbits) ++
        scan91 b91Params ((acc + d * 2 ^ nbits) / 2 ^ (8 * ((nbits + creditedBits91 d) / 8)))
          ((nbits + creditedBits91 d) % 8) none rest :=
  scan91_pair (pair91_eq rfl acc nbits _ _ hd (or_shiftLeft_eq_add d hacc).symm rfl) rest

/-- The characters of a value are a pair of that value. -/
theorem scan91_pairChars91 {acc nbits d : Nat} (hacc : acc < 2 ^ nbits) (hd : d ≤ 8280) (rest : List Byte) :
    scan91 b91Params acc nbits none (pairChars91 b91Params d ++ rest) =
      leBytes ((nbits + creditedBits91 d) / 8) (acc + d * 2 ^ nbits) ++
        scan91 b91Params ((acc + d * 2 ^ nbits) / 2 ^ (8 * ((nbits + creditedBits91 d) / 8)))
          ((nbits + creditedBits91 d) % 8) none rest := by
  refine scan91_pair_value hacc ?_ rest
  have hchar {v : Nat} (hv : v < 91) : val91 b91Params (charOf b91Params.alphabet v) = v := val91_charOf91 hv
  rw [hchar (by omega), hchar (by omega)]
  omega

/-- At the end, with no bits left, nothing more is given. -/
theorem scan91_end_zero (p : Config.B91Params) (nbits : Nat) : scan91 p 0 nbits none [] = [] :=
  scan91_end p 0 nbits

/-! Texts split where the credited bits are whole bytes. -/

/-- A first part in the alphabet that ends with whole bytes leaves the decoder as at its start. -/
theorem scan91_append (t2 : List Byte) : ∀ (t1 : List Byte) {acc nbits : Nat}, acc < 2 ^ nbits → nbits < 8 →
    t1.length % 2 = 0 → (nbits + creditedBits91Of b91Params t1) % 8 = 0 → (∀ c ∈ t1, c ∈ alph91) →
    scan91 b91Params acc nbits none (t1 ++ t2) =
      scan91 b91Params acc nbits none t1 ++ scan91 b91Params 0 0 none t2
  | [], acc, nbits, hacc, hlt, _, hbits, _ => by
    obtain rfl : nbits = 0 := by simpa [creditedBits91Of, Nat.mod_eq_of_lt hlt] using hbits
    obtain rfl : acc = 0 := by simpa using hacc
    rw [scan91_end_zero, List.nil_append, List.nil_append]
  | [_], _, _, _, _, hlen, _, _ => absurd hlen (by simp)
  | c1 :: c2 :: rest, acc, nbits, hacc, hlt, hlen, hbits, hlegal => by
    obtain ⟨h1, hrest⟩ := List.forall_mem_cons.1 hlegal
    obtain ⟨h2, hrest⟩ := List.forall_mem_cons.1 hrest
    have hv1 := val91_lt h1
    have hv2 := val91_lt h2
    obtain ⟨d, hd⟩ : ∃ d, d = val91 b91Params c1 + val91 b91Params c2 * 91 := ⟨_, rfl⟩
    have hm := add_mul_two_pow_lt hacc (lt_two_pow_creditedBits91 (d := d) (by omega))
    rw [creditedBits91Of, ← hd] at hbits
    have hrestLen : rest.length % 2 = 0 := by simpa [Nat.add_assoc] using hlen
    rw [List.cons_append, List.cons_append, scan91_pair_value hacc hd, scan91_pair_value hacc hd,
      List.append_assoc,
      scan91_append t2 rest (div_lt_two_pow_mod hm) (Nat.mod_lt _ (by decide)) hrestLen (by omega) hrest]

theorem dec91_append {t1 t2 : List Byte} (hlen : t1.length % 2 = 0)
    (hbits : creditedBits91Of b91Params t1 % 8 = 0) (hlegal : ∀ c ∈ t1, c ∈ alph91) :
    dec91 b91Params (t1 ++ t2) = dec91 b91Params t1 ++ dec91 b91Params t2 :=
  scan91_append t2 t1 (acc := 0) (nbits := 0) (by decide) (by decide) hlen (by rwa [Nat.zero_add]) hlegal

/-! Decoding inverts encoding (R214). -/

/-- The characters of a payload fed from an encoder state on, with the flush. -/
def encodeFrom91 (p : Config.B91Params) (st : Nat × Nat) (bytes : List Byte) : List Byte :=
  (feed91 p st bytes).2 ++ close91 p (feed91 p st bytes).1.1 (feed91 p st bytes).1.2

theorem encodeFrom91_nil (p : Config.B91Params) (st : Nat × Nat) :
    encodeFrom91 p st [] = close91 p st.1 st.2 := rfl

theorem encodeFrom91_cons (p : Config.B91Params) (st : Nat × Nat) (b : Byte) (rest : List Byte) :
    encodeFrom91 p st (b :: rest) = (step91 p st b).2 ++ encodeFrom91 p (step91 p st b).1 rest :=
  List.append_assoc _ _ _

section Simulation

variable {acc nbits dacc dbits : Nat}

/-- The flush gives the decoder the bytes on their way: one from a lone character, and from a pair those the
bits held complete, since the bits credited beyond them are fewer than eight and 0. -/
theorem scan91_close91 (henc : Residual91 (acc, nbits)) (hdec : dacc < 2 ^ dbits) (hlt : dbits < 8)
    (hbytes : (dbits + nbits) % 8 = 0) :
    scan91 b91Params dacc dbits none (close91 b91Params acc nbits) =
      leBytes ((dbits + nbits) / 8) (dacc + acc * 2 ^ dbits) := by
  obtain ⟨hle, hacc⟩ : nbits ≤ 13 ∧ acc < 2 ^ nbits := henc
  have hacc13 : acc < 2 ^ 13 := hacc.trans_le (Nat.pow_le_pow_right two_pos hle)
  have hwidth : b91Params.closeWidth = 7 := rfl
  obtain rfl | hpos := Nat.eq_zero_or_pos nbits
  · obtain rfl : dbits = 0 := by omega
    obtain rfl : dacc = 0 := by simpa using hdec
    obtain rfl : acc = 0 := by simpa using hacc
    rfl
  · rw [close91_of_pos _ _ hpos, hwidth]
    split
    next hpair =>
      have hcredit := creditedBits91_eq acc
      have hsmall : nbits ≤ 6 → acc < 2 ^ 6 := fun h => hacc.trans_le (Nat.pow_le_pow_right two_pos h)
      have hsame : (dbits + creditedBits91 acc) / 8 = (dbits + nbits) / 8 := by
        split at hcredit <;> omega
      have hm := add_mul_two_pow_lt hdec hacc
      have hfull : dbits + nbits = 8 * ((dbits + nbits) / 8) := by omega
      have hrest : (dacc + acc * 2 ^ dbits) / 2 ^ (8 * ((dbits + nbits) / 8)) = 0 :=
        Nat.div_eq_of_lt (by rwa [← hfull])
      have hscan := scan91_pairChars91 hdec (d := acc) (by omega) []
      rw [hsame, hrest, scan91_end_zero, List.append_nil, List.append_nil] at hscan
      exact hscan
    next hlone =>
      have hone : (dbits + nbits) / 8 = 1 := by omega
      have hval : val91 b91Params (charOf b91Params.alphabet (acc % 91)) = acc := by
        rw [Nat.mod_eq_of_lt (by omega)]
        exact val91_charOf91 (by omega)
      rw [scan91_lone, hval, or_shiftLeft_eq_add _ hdec, hone]
      simp [leBytes]

/-- Behind a pair the decoder and the encoder hold the same bytes on their way as before, less those given. -/
theorem leBytes_pair {q c k n : Nat} (hq : q = (dbits + c) / 8) (hk : q + k = (dbits + nbits + 8) / 8) :
    leBytes q (dacc + n % 2 ^ c * 2 ^ dbits) ++
        leBytes k ((dacc + n % 2 ^ c * 2 ^ dbits) / 2 ^ (8 * q) + n / 2 ^ c * 2 ^ ((dbits + c) % 8)) =
      leBytes ((dbits + nbits + 8) / 8) (dacc + n * 2 ^ dbits) := by
  have hexp : 8 * q + (dbits + c) % 8 = c + dbits := by omega
  have hn : n % 2 ^ c * 2 ^ dbits + n / 2 ^ c * 2 ^ (c + dbits) = n * 2 ^ dbits := by
    rw [Nat.pow_add, ← Nat.mul_assoc, ← Nat.add_mul, Nat.mul_comm (n / 2 ^ c), Nat.mod_add_div]
  rw [leBytes_append, hexp, hk, Nat.add_assoc dacc, hn]

end Simulation

/-- The decoder gives the bytes on their way, then those still to be encoded. -/
theorem scan91_encodeFrom91 : ∀ (bytes : List Byte) {acc nbits dacc dbits : Nat}, Residual91 (acc, nbits) →
    dacc < 2 ^ dbits → dbits < 8 → (dbits + nbits) % 8 = 0 →
    scan91 b91Params dacc dbits none (encodeFrom91 b91Params (acc, nbits) bytes) =
      leBytes ((dbits + nbits) / 8) (dacc + acc * 2 ^ dbits) ++ bytes
  | [], _, _, _, _, henc, hdec, hlt, hbytes => by
    rw [encodeFrom91_nil, scan91_close91 henc hdec hlt hbytes, List.append_nil]
  | b :: rest, acc, nbits, dacc, dbits, henc, hdec, hlt, hbytes => by
    obtain ⟨hle, hacc⟩ : nbits ≤ 13 ∧ acc < 2 ^ nbits := id henc
    obtain ⟨n, hn⟩ : ∃ n, n = acc + b.toNat * 2 ^ nbits := ⟨_, rfl⟩
    have hnext := step91_residual b91Params henc b
    have hone : leBytes ((dbits + nbits + 8) / 8) (dacc + n * 2 ^ dbits) =
        leBytes ((dbits + nbits) / 8) (dacc + acc * 2 ^ dbits) ++ [b] := by
      have hk : (dbits + nbits + 8) / 8 = (dbits + nbits) / 8 + 1 := by omega
      have hexp : 8 * ((dbits + nbits) / 8) = dbits + nbits := by omega
      have hsum : dacc + n * 2 ^ dbits =
          dacc + acc * 2 ^ dbits + b.toNat * 2 ^ (8 * ((dbits + nbits) / 8)) := by
        rw [hn, hexp, Nat.pow_add]
        ring
      rw [hk, hsum, leBytes_succ (by rw [hexp]; exact add_mul_two_pow_lt hdec hacc)]
    suffices h : scan91 b91Params dacc dbits none (encodeFrom91 b91Params (acc, nbits) (b :: rest)) =
        leBytes ((dbits + nbits + 8) / 8) (dacc + n * 2 ^ dbits) ++ rest by
      rw [h, hone, List.append_assoc, List.singleton_append]
    rw [encodeFrom91_cons]
    obtain hsmall | hgt : nbits + 8 ≤ 13 ∨ 13 < nbits + 8 := by omega
    · rw [step91_of_le b91Params b hacc hsmall, ← hn] at hnext ⊢
      rw [List.nil_append, scan91_encodeFrom91 rest hnext hdec hlt (by omega), Nat.add_assoc]
    · rw [step91_of_gt b91Params b hacc hle hgt hn] at hnext ⊢
      have hm := add_mul_two_pow_lt hdec (lt_two_pow_creditedBits91 (emitted91_le n))
      obtain ⟨hc13, hc14⟩ := creditedBits91_bounds n
      rw [creditedBits91_emitted] at hm
      rw [scan91_pairChars91 hdec (emitted91_le n), creditedBits91_emitted,
        scan91_encodeFrom91 rest hnext (div_lt_two_pow_mod hm) (Nat.mod_lt _ (by decide)) (by omega),
        ← List.append_assoc, leBytes_pair (nbits := nbits) rfl (by omega)]

theorem dec91_enc91 (b : List Byte) : dec91 b91Params (enc91 b91Params b) = b :=
  scan91_encodeFrom91 b (acc := 0) (nbits := 0) (dacc := 0) (dbits := 0) ⟨by decide, by decide⟩ (by decide)
    (by decide) (by decide)

/-- The characters of a value are in the alphabet. -/
theorem mem_alph91_of_mem_pairChars91 {d : Nat} (h : d ≤ 8280) :
    ∀ c ∈ pairChars91 b91Params d, c ∈ alph91 := by
  have hchar {v : Nat} (hv : v < 91) : charOf b91Params.alphabet v ∈ alph91 := charOf_mem hv
  simp [pairChars91, hchar (v := d % 91) (by omega), hchar (v := d / 91) (by omega)]

theorem mem_alph91_of_mem_close91 {acc nbits : Nat} (h : Residual91 (acc, nbits)) :
    ∀ c ∈ close91 b91Params acc nbits, c ∈ alph91 := by
  obtain ⟨hle, hacc⟩ : nbits ≤ 13 ∧ acc < 2 ^ nbits := h
  have hacc13 : acc < 2 ^ 13 := hacc.trans_le (Nat.pow_le_pow_right two_pos hle)
  have hpair := mem_alph91_of_mem_pairChars91 (d := acc) (by omega)
  intro c hc
  obtain rfl | hpos := Nat.eq_zero_or_pos nbits
  · cases hc
  · rw [close91_of_pos _ _ hpos] at hc
    split at hc
    · exact hpair c hc
    · exact hpair c (List.mem_cons.2 (.inl (List.mem_singleton.1 hc)))

theorem mem_alph91_of_mem_encodeFrom91 : ∀ (bytes : List Byte) {st : Nat × Nat}, Residual91 st →
    ∀ c ∈ encodeFrom91 b91Params st bytes, c ∈ alph91
  | [], (_, _), h => mem_alph91_of_mem_close91 h
  | b :: rest, (acc, nbits), h => by
    obtain ⟨hle, hacc⟩ : nbits ≤ 13 ∧ acc < 2 ^ nbits := id h
    rw [encodeFrom91_cons, List.forall_mem_append]
    refine ⟨?_, mem_alph91_of_mem_encodeFrom91 rest (step91_residual b91Params h b)⟩
    obtain hsmall | hgt : nbits + 8 ≤ 13 ∨ 13 < nbits + 8 := by omega
    · rw [step91_of_le b91Params b hacc hsmall]
      simp
    · rw [step91_of_gt b91Params b hacc hle hgt rfl]
      exact mem_alph91_of_mem_pairChars91 (emitted91_le _)

/-- Settles O56: the decoder follows the encoder byte by byte, and every emitted value is two characters'. -/
theorem base91RoundTrip : Obligations.Base91RoundTrip := fun b =>
  ⟨dec91_enc91 b, mem_alph91_of_mem_encodeFrom91 b (st := (0, 0)) ⟨by decide, by decide⟩⟩

/-- Settles O58, one engine after the other. -/
theorem alignedSplitsDecodePiecewise : Obligations.AlignedSplitsDecodePiecewise :=
  ⟨fun _ _ _ _ => dec45_append, fun _ _ _ _ => dec85_append, fun _ _ => dec91_append⟩

end Sys2Proof.Machine
end

section
/-! PROOFS. The invariant of the block (10_state.md rules R24 to R26 and R32, 60_exceptions.md rule R241): it holds
after reset (ResetMeetsTheInvariant) and every update of a channel, every `Finish` and every host action keeps it
(EncoderResidualInvariant, EveryStepKeepsTheInvariant). -/

namespace Sys2Proof.Machine

/-- A property of states that holds after reset, does not mention the host's side or OUT, and is kept by
`Finish(ILLEGAL)` and by every command is kept by every step. -/
theorem step_keeps {P : State → Prop} (hreset : P State.reset)
    (hhost : ∀ s out queue reply, P s → P (s.withHostSide out queue reply))
    (hillegal : ∀ s c, P s → P (s.finishBare c .illegal))
    (hcommand : ∀ i s t, P s → s.dataIn.length = i.payloadBytes →
      Completes i (cmdIdOf i) s s.dataIn t → P t)
    {s t : State} (hs : P s) (hstep : step s = .next t) : P t := by
  obtain ⟨-, rfl⟩ | ⟨a, rest, -, ⟨w, -, hrun⟩ | ⟨out, reply, rfl⟩ | ⟨-, rfl⟩⟩ := step_cases hstep
  · exact hs
  · obtain ⟨i, -, hexec⟩ | rfl := runCommandWord_cases hrun
    · exact hcommand i s t hs (exec_eq_next.1 hexec).1 (completes_of_exec hexec)
    · exact hillegal s _ hs
  · exact hhost s out rest reply hs
  · exact hhost State.reset [] rest s.reply hreset

/-! The residuals of the encoder channels (R25). -/

theorem residualFits_empty (e : Engine) (st : EncSt) :
    residualFits e { st := st, res := [], acc := 0, nbits := 0 } := by
  cases e with
  | b45 | b85 => exact ⟨Nat.zero_le _, rfl, rfl⟩
  | b91 => exact ⟨rfl, Nat.zero_le _, Nat.zero_lt_one⟩

theorem residualInv_empty (e : Engine) (st : EncSt) :
    ResidualInv e { st := st, res := [], acc := 0, nbits := 0 } :=
  ⟨residualFits_empty e st, fun _ => ⟨rfl, rfl, rfl⟩⟩

/-- A feed leaves a residual within the limits of its engine. -/
theorem residualFits_feedBy {e : Engine} {ch : EncChannel} (h : residualFits e ch) (p : List Byte) :
    residualFits e (feedBy e p ch).1 := by
  cases e with
  | b45 =>
    obtain ⟨-, hacc, hnbits⟩ := h
    refine ⟨?_, hacc, hnbits⟩
    have hres : (feedBy .b45 p ch).1.res.length = (ch.res ++ p).length % 2 := encodePairs45_residual_length _
    omega
  | b85 =>
    obtain ⟨-, hacc, hnbits⟩ := h
    refine ⟨?_, hacc, hnbits⟩
    have hres : (feedBy .b85 p ch).1.res.length = (ch.res ++ p).length % 4 := encodeGroups85_residual_length _
    omega
  | b91 =>
    have hexact := feedRecord91_exact h p
    obtain ⟨hres, hnbits, hacc⟩ := h
    have hheld := feed91_residual b91Params (st := (ch.acc.toNat, ch.nbits.toNat)) ⟨hnbits, hacc⟩ p
    rw [← hexact] at hheld
    exact ⟨hres, hheld⟩

theorem EncUpdate.residualInv {i : Instr} {p : List Byte} {ch ch' : EncChannel} (h : EncUpdate i p ch ch')
    (hfits : residualFits i.engine ch) : ResidualInv i.engine ch' := by
  cases h with
  | eopen _ | eclose _ _ | efail _ _ => exact residualInv_empty _ _
  | efeed _ hst =>
    exact ⟨residualFits_feedBy hfits p, fun hne => absurd ((feedBy_st _ _ _).trans hst) hne⟩

theorem residualInv_reset (e : Engine) : ResidualInv e (State.reset.enc.get e) := by
  rw [State.reset, PerEngine.get_mk]
  exact residualInv_empty e .idle

theorem residualInv_of_completes {i : Instr} {c : CmdId} {s t : State} {p : List Byte}
    (h : ∀ e, ResidualInv e (s.enc.get e)) (hdone : Completes i c s p t) :
    ∀ e, ResidualInv e (t.enc.get e) := by
  intro e
  obtain heq | ⟨rfl, hup⟩ := hdone.enc_get e
  · exact heq ▸ h e
  · exact hup.residualInv (h i.engine).fits

/-- Settles O17: every update of an encoder channel leaves a residual within the limits, and none where the
channel is not OPEN. -/
theorem encoderResidualInvariant : Obligations.EncoderResidualInvariant :=
  ⟨residualInv_reset, fun _ _ => step_keeps residualInv_reset (fun _ _ _ _ h => h) (fun _ _ h => h)
    fun _ _ _ h _ hdone => residualInv_of_completes h hdone⟩

/-! The errors an encoder channel can latch (R115). -/

/-- A failure code in an error value keeps its 24 bits. -/
theorem setWidth_len_lt (n : Len) : (n.setWidth 32).toNat < 2 ^ 24 := by
  have h := n.isLt
  rw [BitVec.toNat_setWidth]
  omega

theorem EncUpdate.encErrInv {i : Instr} {p : List Byte} {ch ch' : EncChannel} (h : EncUpdate i p ch ch') :
    EncErrInv ch' := by
  intro err hst
  obtain ⟨-, rfl⟩ := h.failed hst
  exact ⟨rfl, rfl, setWidth_len_lt i.len⟩

/-! The errors of the decoders (R241). -/

section Legal

variable {pos : Nat}

theorem ofNat32_lt {n bound : Nat} (h : n < bound) : (BitVec.ofNat 32 n).toNat < bound :=
  (Nat.mod_le _ _).trans_lt h

theorem legal_invalidLength (h : pos < 2 ^ 24) : (ErrorValue.of .invalidLength pos 1).legal :=
  ⟨ofNat32_lt h, rfl⟩

theorem legal_illegalChar (h : pos < 2 ^ 24) (c : Byte) : (ErrorValue.of .illegalChar pos c.toNat).legal :=
  ⟨ofNat32_lt h, ofNat32_lt c.isLt⟩

theorem legal_corrupt (h : pos < 2 ^ 24) : (ErrorValue.of .corrupt pos 0).legal :=
  ⟨ofNat32_lt h, rfl⟩

theorem legal_upstream (n : Len) : ErrorValue.legal { kind := .upstream, pos := 0, aux := n.setWidth 32 } :=
  ⟨rfl, setWidth_len_lt n⟩

end Legal

/-- A position of a text is below its length. -/
theorem lt_length_of_getElem? {t : List Byte} {p : Nat} {c : Byte} (h : t[p]? = some c) : p < t.length :=
  (List.getElem?_eq_some_iff.1 h).1

/-- A group above its range is one of the text's. -/
theorem overflows45_lt {t : List Byte} {g : Nat} (h : overflows45 t g) : g < t.length := by
  have hgroup : 0 < (group45 t g).length := by
    obtain ⟨hlen, -⟩ | ⟨hlen, -⟩ := h <;> omega
  rw [group45, List.length_take, List.length_drop] at hgroup
  omega

theorem dec45_error_legal {t : List Byte} {err : ErrorValue} (h : dec45 t = .error err)
    (ht : t.length < 2 ^ 24) : err.legal := by
  by_cases hlen : t.length % 3 = 1
  · obtain rfl := Except.error.inj ((dec45_of_length hlen).symm.trans h)
    exact legal_invalidLength ht
  by_cases hlegal : ∀ c ∈ t, c ∈ alph45
  · by_cases hover : ∃ g, overflows45 t g
    · obtain ⟨g, hg, hmin⟩ := exists_first_overflow hover
      obtain rfl := Except.error.inj ((dec45_of_overflow hlen hlegal hg hmin).symm.trans h)
      exact legal_corrupt ((overflows45_lt hg).trans ht)
    · obtain ⟨bytes, hok⟩ := dec45_of_no_overflow hlen hlegal (not_exists.1 hover)
      cases hok.symm.trans h
  · obtain ⟨p, c, hget, hc, hmin⟩ := exists_first_illegal hlegal
    obtain rfl := Except.error.inj ((dec45_of_illegal hlen hget hc hmin).symm.trans h)
    exact legal_illegalChar ((lt_length_of_getElem? hget).trans ht) c

/-- A text closes at most one group with each character. -/
theorem closedGroups85_le (t : List Byte) (m : Nat) : closedGroups85 m t ≤ t.length := by
  induction t generalizing m with
  | nil => exact le_rfl
  | cons c rest ih =>
    rw [closedGroups85, List.length_cons]
    split
    · rw [Nat.add_comm]
      exact Nat.succ_le_succ (ih m)
    · split
      · rw [Nat.add_comm]
        exact Nat.succ_le_succ (ih 0)
      · exact (ih (m + 1)).trans (Nat.le_succ _)

theorem dec85_error_legal {t : List Byte} {err : ErrorValue} (h : dec85 t = .error err)
    (ht : t.length < 2 ^ 24) : err.legal := by
  obtain ⟨p, c, hget, hcases⟩ | ⟨-, rfl⟩ | ⟨-, -, rfl⟩ := dec85_error h
  · have hp := lt_length_of_getElem? hget
    have hclosed := (closedGroups85_le (t.take p) 0).trans (List.length_take_le _ _)
    obtain ⟨-, -, rfl⟩ | ⟨-, -, rfl⟩ | ⟨-, -, -, rfl⟩ := hcases
    · exact legal_illegalChar (hp.trans ht) c
    · exact legal_illegalChar (hp.trans ht) shorthand85
    · exact legal_corrupt (by omega)
  · exact legal_invalidLength ht
  · exact legal_corrupt ((closedGroups85_le t 0).trans_lt ht)

theorem decodeBy_error_legal {e : Engine} {t : List Byte} {err : ErrorValue} (h : decodeBy e t = .error err)
    (ht : t.length < 2 ^ 24) : err.legal ∧ (e = .b91 → err.kind = .upstream) := by
  cases e with
  | b45 => exact ⟨dec45_error_legal h ht, nofun⟩
  | b85 => exact ⟨dec85_error_legal h ht, nofun⟩
  | b91 => cases h

/-! The pending buffers of the decoder channels (R26). -/

/-- A decoding of fewer than 2^24 characters is within its engine's limit (R150, R180, R215). -/
theorem decodeBy_length_le {e : Engine} {t bytes : List Byte} (h : decodeBy e t = .ok bytes)
    (ht : t.length < 2 ^ 24) : bytes.length ≤ pendLimit e := by
  have hle := Nat.le_pred_of_lt ht
  cases e with
  | b45 => exact (dec45_length_le h).trans hle
  | b85 => exact (dec85_length_le h).trans (Nat.mul_le_mul_left 4 hle)
  | b91 =>
    cases h
    exact (dec91_length_le _ _).trans hle

/-- A channel that is OPEN or at EOF meets the invariant with any pending bytes within the limit. -/
theorem decInv_of_admitted {e : Engine} {ch : DecChannel} (hst : ch.st = .opened ∨ ch.st = .eof)
    (hfits : ch.pend.length ≤ pendLimit e) : DecInv e ch where
  pendEmpty h := by
    obtain hst | hst := hst <;> obtain h | ⟨err, h⟩ := h <;> cases hst.symm.trans h
  pendFits := hfits
  errLegal err h := by obtain hst | hst := hst <;> cases hst.symm.trans h

/-- A channel that latched a legal error meets the invariant. -/
theorem decInv_failed {e : Engine} {err : ErrorValue} (h : err.legal)
    (h91 : e = .b91 → err.kind = .upstream) : DecInv e { st := .failed err, pend := [] } where
  pendEmpty _ := rfl
  pendFits := Nat.zero_le _
  errLegal err' heq := by
    obtain rfl := DecSt.failed.inj heq
    exact ⟨h, h91⟩

theorem DecUpdate.decInv {i : Instr} {p : List Byte} {ch ch' : DecChannel} (h : DecUpdate i p ch ch')
    (hinv : DecInv i.engine ch) (hp : p.length < 2 ^ 24) : DecInv i.engine ch' := by
  cases h with
  | dopen _ => exact decInv_of_admitted (.inl rfl) (Nat.zero_le _)
  | dchunk _ hst _ hdec => exact decInv_of_admitted (.inl hst) (decodeBy_length_le hdec hp)
  | dchunkError _ _ hdec =>
    obtain ⟨hlegal, h91⟩ := decodeBy_error_legal hdec hp
    exact decInv_failed hlegal h91
  | dread _ hst =>
    refine decInv_of_admitted hst (le_trans ?_ hinv.pendFits)
    rw [List.length_drop]
    exact Nat.sub_le _ _
  | deof _ _ => exact decInv_of_admitted (.inr rfl) hinv.pendFits
  | dfail _ _ => exact decInv_failed (legal_upstream i.len) fun _ => rfl

/-! The result registers (R32, R33, R240). -/

theorem Result.code_injective : Function.Injective Result.code := by
  intro r r' h
  cases r <;> cases r' <;> first | rfl | exact absurd h (by decide)

theorem Result.code_toNat_le (r : Result) : r.code.toNat ≤ 5 := by cases r <;> decide

theorem ErrKind.code_toNat_le (k : ErrKind) : k.code.toNat ≤ 4 := by cases k <;> decide

/-- A report with an error kind, a position and an auxiliary value for ERROR alone, and a count for OK alone,
is legal. -/
theorem resultInv_of_reports {t : State} {c : CmdId} {r : Result} {kind : BitVec 4} {pos aux : Word} {n : Nat}
    (h : Reports t c r kind pos aux n) (hkind : kind.toNat ≤ 4) (hiff : kind ≠ 0 ↔ r = .error)
    (hzero : r ≠ .error → pos = 0 ∧ aux = 0) (hcount : r ≠ .ok → n = 0) : ResultInv t where
  gap := h.gap
  high := h.high
  resultCode := h.result ▸ r.code_toNat_le
  kindCode := h.kind ▸ hkind
  kindIff := by rw [h.kind, h.result, Result.code_injective.eq_iff, hiff]
  noError hne := by
    rw [h.errPos, h.errAux]
    exact hzero fun hr => hne (by rw [h.result, hr])
  noCount hne := by
    rw [h.count, hcount fun hr => hne (by rw [h.result, hr])]
    rfl

theorem FinishOf.resultInv {u t : State} {c : CmdId} (h : FinishOf u c t) : ResultInv t := by
  cases h with
  | ok n =>
    exact resultInv_of_reports (u.finish_reports c .ok 0 0 0 n) (by decide) (by decide)
      (fun _ => ⟨rfl, rfl⟩) fun hne => absurd rfl hne
  | @bare r hr _ =>
    exact resultInv_of_reports (u.finish_reports c r 0 0 0 0) (by decide)
      (iff_of_false (not_not.2 rfl) hr) (fun _ => ⟨rfl, rfl⟩) fun _ => rfl
  | error err =>
    exact resultInv_of_reports (u.finish_reports c .error err.kind.code err.pos err.aux 0)
      err.kind.code_toNat_le (iff_of_true err.kind.code_ne_zero rfl) (fun hne => absurd rfl hne) fun _ => rfl

/-- The result registers do not show the host's side or OUT. -/
theorem ResultInv.withHostSide {s : State} (h : ResultInv s) (out : List Byte) (queue : List HostAction)
    (reply : Reply) : ResultInv (s.withHostSide out queue reply) :=
  ⟨h.gap, h.high, h.resultCode, h.kindCode, h.kindIff, h.noError, h.noCount⟩

/-! The invariant of the block. -/

/-- Settles O16: the reset channels are IDLE and empty, and STATUS is 0. -/
theorem resetMeetsTheInvariant : Obligations.ResetMeetsTheInvariant where
  residual := residualInv_reset
  encErr e err h := by
    rw [State.reset, PerEngine.get_mk] at h
    cases h
  dec e := by
    rw [State.reset, PerEngine.get_mk]
    exact ⟨fun _ => rfl, Nat.zero_le _, fun _ h => by cases h⟩
  result := ⟨by decide, by decide, by decide, by decide, by decide, fun _ => ⟨rfl, rfl⟩, fun _ => rfl⟩

/-- A payload is shorter than 2^24 bytes, as LEN holds 24 bits (R74). -/
theorem payloadBytes_lt (i : Instr) : i.payloadBytes < 2 ^ 24 := by
  rw [Instr.payloadBytes]
  split
  · exact i.len.isLt
  · decide

theorem inv_of_completes {i : Instr} {c : CmdId} {s t : State} {p : List Byte} (hinv : Inv s)
    (hp : p.length < 2 ^ 24) (h : Completes i c s p t) : Inv t where
  residual := residualInv_of_completes hinv.residual h
  encErr e := by
    obtain heq | ⟨rfl, hup⟩ := h.enc_get e
    · exact heq ▸ hinv.encErr e
    · exact hup.encErrInv
  dec e := by
    obtain heq | ⟨rfl, hup⟩ := h.dec_get e
    · exact heq ▸ hinv.dec e
    · exact hup.decInv (hinv.dec i.engine) hp
  result := by
    obtain ⟨u, -, hfin⟩ := h
    exact hfin.resultInv

/-- Settles O18: every command keeps each part of the invariant by the updates it can make and by its
`Finish`; the other actions touch none of it, or reset the block. -/
theorem everyStepKeepsTheInvariant : Obligations.EveryStepKeepsTheInvariant := by
  intro s t hinv hstep
  refine step_keeps (P := Inv) resetMeetsTheInvariant (fun s out queue reply h => ?_)
    (fun s c h => ?_) (fun i s t h hlen hdone => ?_) hinv hstep
  · exact ⟨h.residual, h.encErr, h.dec, h.result.withHostSide out queue reply⟩
  · exact ⟨h.residual, h.encErr, h.dec, (FinishOf.bare (u := s) (c := c) (by decide) (by decide)).resultInv⟩
  · exact inv_of_completes h (hlen ▸ payloadBytes_lt i) hdone

end Sys2Proof.Machine
end

section
/-! PROOFS. Streaming encode (40_streaming.md rule R103, EncodingIsChunkIndependent): for every engine, feeding a
part and encoding the rest from the residual is encoding both, so EOPEN, the EFEEDs and ECLOSE append what ENC of
the whole appends. -/

namespace Sys2Proof.Machine

/-! Encoding from a channel record on. -/

/-- The characters that a channel with the record `ch` gives for the bytes and its ECLOSE. -/
def encodeFrom (e : Engine) (ch : EncChannel) (bytes : List Byte) : List Byte :=
  (feedBy e bytes ch).2 ++ flushBy e (feedBy e bytes ch).1

/-- For base-91 these are the characters encoded from the bits the record holds. -/
theorem encodeFrom_b91 {ch : EncChannel} (h : residualFits .b91 ch) (bytes : List Byte) :
    encodeFrom .b91 ch bytes = encodeFrom91 b91Params (ch.acc.toNat, ch.nbits.toNat) bytes := by
  obtain ⟨hacc, hnbits⟩ := Prod.ext_iff.1 (feedRecord91_exact h bytes)
  simp only [encodeFrom, encodeFrom91, feedBy, flushBy] at hacc hnbits ⊢
  rw [hacc, hnbits]
  rfl

theorem encodeFrom91_append (p : Config.B91Params) (l m : List Byte) (st : Nat × Nat) :
    encodeFrom91 p st (l ++ m) = (feed91 p st l).2 ++ encodeFrom91 p (feed91 p st l).1 m := by
  induction l generalizing st with
  | nil => rfl
  | cons b rest ih =>
    rw [List.cons_append, encodeFrom91_cons, ih, ← List.append_assoc]
    rfl

/-- With nothing more to feed, only the flush is left. -/
theorem encodeFrom_nil {e : Engine} {ch : EncChannel} (h : residualFits e ch) :
    encodeFrom e ch [] = flushBy e ch := by
  cases e with
  | b45 =>
    obtain ⟨hres, -, -⟩ := h
    have hshort : encodePairs45 ch.res = (ch.res, []) := by
      match ch.res, hres with
      | [], _ => rfl
      | [_], _ => rfl
    simp [encodeFrom, feedBy, feedRecord45, flushBy, feed45, hshort]
  | b85 =>
    obtain ⟨hres, -, -⟩ := h
    simp [encodeFrom, feedBy, feedRecord85, flushBy, feed85, encodeGroups85_of_short (Nat.lt_succ_of_le hres)]
  | b91 => exact (encodeFrom_b91 h []).trans (encodeFrom91_nil _ _)

/-- Two parts are encoded as the first fed, then the second encoded from its residual on. -/
theorem encodeFrom_append {e : Engine} {ch : EncChannel} (h : residualFits e ch) (l m : List Byte) :
    encodeFrom e ch (l ++ m) = (feedBy e l ch).2 ++ encodeFrom e (feedBy e l ch).1 m := by
  cases e with
  | b45 =>
    simp only [encodeFrom, feedBy, feedRecord45, flushBy, feed45]
    rw [← List.append_assoc ch.res, encodePairs45_append, List.append_assoc]
  | b85 =>
    simp only [encodeFrom, feedBy, feedRecord85, flushBy, feed85]
    rw [← List.append_assoc ch.res, encodeGroups85_append, List.append_assoc]
  | b91 =>
    rw [encodeFrom_b91 h, encodeFrom_b91 (residualFits_feedBy h l), encodeFrom91_append]
    exact congrArg _ (congrArg (encodeFrom91 b91Params · m) (feedRecord91_exact h l).symm)

/-- From a fresh record on, the characters are the whole-buffer encoding. -/
theorem encodeFrom_fresh (e : Engine) (bytes : List Byte) :
    encodeFrom e { st := .opened, res := [], acc := 0, nbits := 0 } bytes = encodeBy e bytes := by
  cases e with
  | b45 | b85 => rfl
  | b91 => exact encodeFrom_b91 (residualFits_empty .b91 .opened) bytes

/-! The transactions of SENC (R82). -/

@[simp] theorem State.presenting_enc (s : State) (x : Transaction) : (s.presenting x).enc = s.enc := rfl

@[simp] theorem payloadTransaction_op (o : Op) (e : Engine) (p : List Byte) :
    (payloadTransaction o e p).instr.op = o :=
  Instr.op_ofFields o e _

@[simp] theorem payloadTransaction_engine (o : Op) (e : Engine) (p : List Byte) :
    (payloadTransaction o e p).instr.engine = e :=
  Instr.engine_ofFields o e _

@[simp] theorem payloadTransaction_payload (o : Op) (e : Engine) (p : List Byte) :
    (payloadTransaction o e p).payload = p := rfl

/-- A payload that LEN can count is sent with its length. -/
theorem presenting_payload_length {o : Op} (e : Engine) {p : List Byte} (s : State)
    (ho : o.lenMustBeZero = false) (hp : p.length < 2 ^ 24) :
    (s.presenting (payloadTransaction o e p)).dataIn.length =
      (payloadTransaction o e p).instr.len.toNat := by
  have hlen : (payloadTransaction o e p).instr.len = BitVec.ofNat 24 p.length :=
    Instr.len_ofFields e fun hzero => by cases ho.symm.trans hzero
  rw [hlen, BitVec.toNat_ofNat, Nat.mod_eq_of_lt hp]
  rfl

/-- On an OPEN channel, the EFEEDs of the parts and ECLOSE append what the parts give from its record on. -/
theorem issueAll_feeds_close {e : Engine} : ∀ (parts : List (List Byte)) {s : State},
    (∀ p ∈ parts, p.length < 2 ^ 24) → (s.enc.get e).st = .opened → residualFits e (s.enc.get e) →
    ∃ t, issueAll (parts.map (payloadTransaction .efeed e) ++ [bareTransaction .eclose e 0]) s = .next t ∧
      t.out = s.out ++ encodeFrom e (s.enc.get e) parts.flatten
  | [], s, _, hst, hfits => by
    obtain ⟨t, hclose, -, hch⟩ := exec_of_eclose (i := (bareTransaction .eclose e 0).instr)
      (s := s.presenting (bareTransaction .eclose e 0)) (by simp) rfl (by simpa using hst)
    refine ⟨t, issueAll_cons_of_exec hclose, ?_⟩
    rw [List.flatten_nil, encodeFrom_nil hfits]
    simpa using hch.out
  | p :: parts, s, hparts, hst, hfits => by
    obtain ⟨hp, hparts⟩ := List.forall_mem_cons.1 hparts
    obtain ⟨u, hfeed, -, hch⟩ := exec_of_efeed (i := (payloadTransaction .efeed e p).instr)
      (s := s.presenting (payloadTransaction .efeed e p)) (by simp) (presenting_payload_length e s rfl hp)
      (by simpa using hst)
    have hrec : u.enc.get e = (feedBy e p (s.enc.get e)).1 := by simpa using hch.channel
    have hout : u.out = s.out ++ (feedBy e p (s.enc.get e)).2 := by simpa using hch.out
    obtain ⟨t, hrest, hemit⟩ := issueAll_feeds_close parts (s := u) hparts
      (by rw [hrec, feedBy_st, hst]) (hrec ▸ residualFits_feedBy hfits p)
    refine ⟨t, (issueAll_cons_of_exec hfeed).trans hrest, ?_⟩
    rw [hemit, hout, hrec, List.flatten_cons, encodeFrom_append hfits, List.append_assoc]

/-- Settles O47: EOPEN makes a fresh record, from which the parts give the whole-buffer encoding; ENC emits the
same. -/
theorem encodingIsChunkIndependent : Obligations.EncodingIsChunkIndependent := by
  intro e parts s hparts
  obtain ⟨u, hopen, -, hch⟩ := exec_of_eopen (i := (bareTransaction .eopen e 0).instr)
    (s := s.presenting (bareTransaction .eopen e 0)) (by simp) rfl
  have hrec : u.enc.get e = { st := .opened, res := [], acc := 0, nbits := 0 } := by simpa using hch.channel
  have hout : u.out = s.out := by simpa using hch.out
  obtain ⟨t, hrest, hemit⟩ := issueAll_feeds_close (e := e) parts (s := u) hparts (by rw [hrec])
    (hrec ▸ residualFits_empty e .opened)
  rw [hrec, hout, encodeFrom_fresh] at hemit
  refine ⟨t, (issueAll_cons_of_exec hopen).trans hrest, hemit, fun hlen => ?_⟩
  obtain ⟨v, henc, -, honly⟩ := exec_of_enc (i := (payloadTransaction .enc e parts.flatten).instr)
    (s := s.presenting (payloadTransaction .enc e parts.flatten)) (by simp)
    (presenting_payload_length e s rfl hlen)
  refine ⟨v, (performNow_hostAction _ s).trans henc, ?_⟩
  rw [hemit, honly.out, payloadTransaction_engine]
  rfl

end Sys2Proof.Machine
end
